-- ==== Sys2Proof/Word.lean ====
section
/-! DEFINITION. The words that cross the CORE's ports (20_memory.md R48, R52: every word is transferred whole, bit 0 is
the least significant bit). -/

namespace Sys2Proof

/-- A command word `CMD[39:0]` (30_encoding.md R56). -/
abbrev Command := BitVec 40

/-- The operand word `ARG[31:0]` of a command (30_encoding.md R56). -/
abbrev Operand := BitVec 32

/-- A response word `RESP[3:0]` (30_encoding.md R63). -/
abbrev Response := BitVec 4

/-- The 32-bit output bank `OUT`, or a mask over it (20_memory.md R40, R41). -/
abbrev Bank := BitVec 32

/-- A phase pattern over the logical pins 0..3; bit `k` is logical pin `k` (20_memory.md R41). -/
abbrev Pattern := BitVec 4

end Sys2Proof
end

