-- ==== Sys2Proof/Syntax.lean ====
section
/-! DEFINITION. The eight command forms of 30_encoding.md R69, one constructor per row of spec/opcode_table.json.
`idle` (R68) is another spelling of `stepFast 0` and has no constructor of its own. -/

namespace Sys2Proof

/-- A decoded command. -/
inductive Instr where
  /-- STEP.SLOW: `n` is the operand word, read as a two's complement step count (R59, R79). -/
  | stepSlow (n : Operand)
  /-- STEP.AUTO (R59, R81). -/
  | stepAuto (n : Operand)
  /-- STEP.FAST (R59, R80). -/
  | stepFast (n : Operand)
  /-- UPDATE: the hour field `ARG[10:6]` and the minute field `ARG[5:0]` (R60, R96). -/
  | update (hour : BitVec 5) (minute : BitVec 6)
  /-- HOME (R110). -/
  | home
  /-- CALIBRATE (R130). -/
  | calibrate
  /-- IS_HOME (R90). -/
  | isHome
  /-- IS_BUTTON (R91). -/
  | isButton
  deriving DecidableEq, Repr

end Sys2Proof
end

