-- ==== Sys2Proof/WellFormed.lean ====
section
/-! DEFINITION. Which instructions a legal command word can stand for (30_encoding.md R60, R62): the field widths are in
the constructors' types, so the two operand ranges of UPDATE are all that is left to check. -/

namespace Sys2Proof

/-- R60: `hour` is in 0..23. -/
def hourInRange (hour : BitVec 5) : Bool := decide (hour.toNat ≤ 23)

/-- R60: `minute` is in 0..59. -/
def minuteInRange (minute : BitVec 6) : Bool := decide (minute.toNat ≤ 59)

/-- R60, R62: the operands of an instruction are in the range that a legal word can carry. -/
def Instr.wellFormed (i : Instr) : Bool :=
  match i with
  | .stepSlow _ => true
  | .stepAuto _ => true
  | .stepFast _ => true
  | .update hour minute => hourInRange hour && minuteInRange minute
  | .home => true
  | .calibrate => true
  | .isHome => true
  | .isButton => true

end Sys2Proof
end

