-- ==== Sys2Proof/Decode.lean ====
section
/-! DEFINITION. The decoder of 30_encoding.md R56 to R62, total on every 40-bit word and rejecting by name, and the
encoder written from the same tables (R56 to R61, R69). -/

namespace Sys2Proof

/-- Why a word is illegal: one name for each ground of R62. -/
inductive IllegalWord where
  /-- `OPC` is 0b000 or 0b111. -/
  | reservedOpcode
  /-- `ZERO` is not 0. -/
  | zeroFieldNotZero
  /-- `OPC` is STEP and `SPD` is 0b11. -/
  | reservedSpeed
  /-- `OPC` is not STEP and `SPD` is not 0b00. -/
  | speedOnOtherCommand
  /-- UPDATE with `ARG[31:11]` not 0. -/
  | updateHighBitsNotZero
  /-- UPDATE with `hour > 23`. -/
  | hourOutOfRange
  /-- UPDATE with `minute > 59`. -/
  | minuteOutOfRange
  /-- HOME, CALIBRATE, IS_HOME or IS_BUTTON with `ARG` not 0. -/
  | operandNotZero
  deriving DecidableEq, Repr

/-- What the decoder answers for a word. -/
inductive Decoded where
  | instr (i : Instr)
  | illegal (why : IllegalWord)
  deriving DecidableEq, Repr

/-- `OPC`, bits 39:37 (R56). -/
def opcOf (w : Command) : BitVec 3 := w.extractLsb' 37 3

/-- `SPD`, bits 36:35 (R56). -/
def spdOf (w : Command) : BitVec 2 := w.extractLsb' 35 2

/-- `ZERO`, bits 34:32 (R56). -/
def zeroOf (w : Command) : BitVec 3 := w.extractLsb' 32 3

/-- `ARG`, bits 31:0 (R56). -/
def argOf (w : Command) : Operand := w.extractLsb' 0 32

/-- `ARG[31:11]`, which UPDATE wants zero (R60). -/
def updateHighOf (arg : Operand) : BitVec 21 := arg.extractLsb' 11 21

/-- `hour = ARG[10:6]` (R60). -/
def hourOf (arg : Operand) : BitVec 5 := arg.extractLsb' 6 5

/-- `minute = ARG[5:0]` (R60). -/
def minuteOf (arg : Operand) : BitVec 6 := arg.extractLsb' 0 6

/-- The speed selector of STEP (R58). -/
def decodeStep (spd : BitVec 2) (arg : Operand) : Decoded :=
  if spd = 0b00#2 then .instr (.stepSlow arg)
  else if spd = 0b01#2 then .instr (.stepAuto arg)
  else if spd = 0b10#2 then .instr (.stepFast arg)
  else .illegal .reservedSpeed

/-- The operand of UPDATE (R60). -/
def decodeUpdate (arg : Operand) : Decoded :=
  if updateHighOf arg ≠ 0#21 then .illegal .updateHighBitsNotZero
  else if hourInRange (hourOf arg) = false then .illegal .hourOutOfRange
  else if minuteInRange (minuteOf arg) = false then .illegal .minuteOutOfRange
  else .instr (.update (hourOf arg) (minuteOf arg))

/-- The commands without an operand (R61). -/
def decodeNoOperand (i : Instr) (arg : Operand) : Decoded :=
  if arg = 0#32 then .instr i else .illegal .operandNotZero

/-- The decoder: the operation codes of R57 and the legality conditions of R62. -/
def decode (w : Command) : Decoded :=
  if opcOf w = 0b000#3 ∨ opcOf w = 0b111#3 then .illegal .reservedOpcode
  else if zeroOf w ≠ 0#3 then .illegal .zeroFieldNotZero
  else if opcOf w = 0b001#3 then decodeStep (spdOf w) (argOf w)
  else if spdOf w ≠ 0#2 then .illegal .speedOnOtherCommand
  else if opcOf w = 0b010#3 then decodeUpdate (argOf w)
  else if opcOf w = 0b011#3 then decodeNoOperand .home (argOf w)
  else if opcOf w = 0b100#3 then decodeNoOperand .calibrate (argOf w)
  else if opcOf w = 0b101#3 then decodeNoOperand .isHome (argOf w)
  else decodeNoOperand .isButton (argOf w)

/-- The word with the given fields and `ZERO = 0` (R56: `OPC ++ SPD ++ ZERO ++ ARG`). -/
def commandWord (opc : BitVec 3) (spd : BitVec 2) (arg : Operand) : Command :=
  opc ++ spd ++ 0#3 ++ arg

/-- The operand word of UPDATE (R60). -/
def updateOperand (hour : BitVec 5) (minute : BitVec 6) : Operand :=
  0#21 ++ hour ++ minute

/-- The encoder: R57, R58, R59 to R61 and the table of R69. -/
def encode (i : Instr) : Command :=
  match i with
  | .stepSlow n => commandWord 0b001#3 0b00#2 n
  | .stepAuto n => commandWord 0b001#3 0b01#2 n
  | .stepFast n => commandWord 0b001#3 0b10#2 n
  | .update hour minute => commandWord 0b010#3 0b00#2 (updateOperand hour minute)
  | .home => commandWord 0b011#3 0b00#2 0#32
  | .calibrate => commandWord 0b100#3 0b00#2 0#32
  | .isHome => commandWord 0b101#3 0b00#2 0#32
  | .isButton => commandWord 0b110#3 0b00#2 0#32

/-- The command word whose `nbits` low bits are those of `w` and whose other bits are 0. -/
def tableWord (nbits w : Nat) : Command := BitVec.ofNat 40 (w % 2 ^ nbits)

/-- The instruction the decoder reads from a word numbered as spec/opcode_table.json numbers it: a command is one 40-bit
word, bit 0 its least significant bit (20_memory.md R48). -/
def decodeTableWord (nbits w : Nat) : Option Instr :=
  match decode (tableWord nbits w) with
  | .instr i => some i
  | .illegal _ => none

/-- The `match` column of R69's table: the fixed bits of a form. -/
def tableMatch (i : Instr) : Command :=
  match i with
  | .stepSlow _ => 0x2000000000#40
  | .stepAuto _ => 0x2800000000#40
  | .stepFast _ => 0x3000000000#40
  | .update _ _ => 0x4000000000#40
  | .home => 0x6000000000#40
  | .calibrate => 0x8000000000#40
  | .isHome => 0xA000000000#40
  | .isButton => 0xC000000000#40

/-- The `mask` column of R69's table: which bits of a form are fixed. -/
def tableMask (i : Instr) : Command :=
  match i with
  | .stepSlow _ => 0xFF00000000#40
  | .stepAuto _ => 0xFF00000000#40
  | .stepFast _ => 0xFF00000000#40
  | .update _ _ => 0xFFFFFFF800#40
  | .home => 0xFFFFFFFFFF#40
  | .calibrate => 0xFFFFFFFFFF#40
  | .isHome => 0xFFFFFFFFFF#40
  | .isButton => 0xFFFFFFFFFF#40

end Sys2Proof
end

