-- ==== Sys2Proof/Config.lean ====
section
/-! DEFINITION. The construction parameters (00_scope.md R7) as plain data, and the free values: the answers that the
environment gives to a sample when none has been placed in State (20_memory.md R47; log 5). The derived constants
and the contract are in Machine/Parameters.lean. -/

namespace Sys2Proof

/-- `CAL_FAIL_POLICY` (R7, 44_calibration.md R133): what CALIBRATE does when its HOME fails. -/
inductive CalFailPolicy where
  /-- `Ignore`: "this hardware". -/
  | ignore
  /-- `Abort`: the variant. -/
  | abort
  deriving DecidableEq, Repr

/-- The parameters of R7, under the manual's names. `NUM_PINS` is 4 and is the number of `pin` fields. Booleans are the
manual's 0 and 1. -/
structure Params where
  /-- `REVERSED`. -/
  reversed : Bool
  /-- `HALF_STEP`. -/
  halfStep : Bool
  /-- `FULL_STEPS_PER_REV`. -/
  fullStepsPerRev : Nat
  /-- `SECONDS_PER_REV`. -/
  secondsPerRev : Nat
  /-- `HOME_NO`, the home-sensor polarity. -/
  homeNo : Bool
  /-- `GEAR_RATIO`. -/
  gearRatio : Nat
  /-- `HOURS_PER_REV`. -/
  hoursPerRev : Nat
  /-- `CYCLE_HOURS`. -/
  cycleHours : Nat
  /-- `PIN[0]`. -/
  pin0 : Fin 32
  /-- `PIN[1]`. -/
  pin1 : Fin 32
  /-- `PIN[2]`. -/
  pin2 : Fin 32
  /-- `PIN[3]`. -/
  pin3 : Fin 32
  /-- `CAL_DWELL_LONG_US`. -/
  calDwellLongUs : Nat
  /-- `CAL_DWELL_SHORT_US`. -/
  calDwellShortUs : Nat
  /-- `CAL_FAIL_POLICY`. -/
  calFailPolicy : CalFailPolicy
  deriving DecidableEq, Repr

/-- FREE VALUE (R47, U4; log 5). The level of `HOME_RAW` at the n-th sample that no placed answer covers. -/
opaque Config.homeDraw : Nat → Bool

/-- FREE VALUE (R47, U4; log 5). The level of `BUTTON` at the n-th sample that no placed answer covers. -/
opaque Config.buttonDraw : Nat → Bool

end Sys2Proof
end

