-- ==== Sys2Proof/Machine/Parameters.lean ====
section
/-! DEFINITION. The constants derived from the construction parameters (00_scope.md R8 to R10) and the parameter contract
(R11). -/

namespace Sys2Proof.Machine

/-- `P`: 8 if `HALF_STEP = 1`, else 4 (R8). -/
def phaseCount (p : Params) : Nat := if p.halfStep then 8 else 4

/-- `STEPS_PER_REV` (R10). -/
def stepsPerRev (p : Params) : Nat := p.fullStepsPerRev * (if p.halfStep then 2 else 1)

/-- `R_US = RAPID_DELAY_US`, in microseconds (R9). -/
def rapidDelayUs (p : Params) : Nat := 1000000 * p.secondsPerRev / stepsPerRev p

/-- `H = STEPS_PER_HOUR` (R10). -/
def stepsPerHour (p : Params) : Nat := stepsPerRev p * p.gearRatio / p.hoursPerRev

/-- `S = STEPS_PER_CYCLE` (R10). -/
def stepsPerCycle (p : Params) : Nat := stepsPerHour p * p.cycleHours

/-- `M = MINUTES_PER_CYCLE` (R10). -/
def minutesPerCycle (p : Params) : Nat := p.cycleHours * 60

/-- `PIN[k]` are distinct (R11; their range 0..31 is in their type). -/
abbrev PinsDistinct (p : Params) : Prop :=
  p.pin0 ≠ p.pin1 ∧ p.pin0 ≠ p.pin2 ∧ p.pin0 ≠ p.pin3 ∧ p.pin1 ≠ p.pin2 ∧ p.pin1 ≠ p.pin3 ∧ p.pin2 ≠ p.pin3

/-- The parameter contract of R11, with R7's `CAL_DWELL_SHORT_US < CAL_DWELL_LONG_US`. -/
abbrev MeetsContract (p : Params) : Prop :=
  PinsDistinct p ∧ 1 ≤ p.fullStepsPerRev ∧ 1 ≤ p.gearRatio ∧ 1 ≤ p.hoursPerRev ∧
  1 ≤ p.cycleHours ∧ p.cycleHours ≤ 24 ∧ 1 ≤ stepsPerHour p ∧
  stepsPerCycle p + stepsPerHour p ≤ 2 ^ 31 - 1 ∧
  (minutesPerCycle p - 1) * stepsPerCycle p ≤ 2 ^ 63 - 1 ∧
  7 * rapidDelayUs p ≤ 2 ^ 32 - 1 ∧
  p.calDwellShortUs < p.calDwellLongUs ∧ p.calDwellLongUs ≤ 2 ^ 32 - 1

/-- The machine's configuration: parameters that meet the contract. A configuration outside it has no meaning (R11,
93_implementation_defined.md U1) and is no value of this type (log 2). -/
abbrev Configuration := { p : Params // MeetsContract p }

/-- Configuration A of 95_test_vectors.md: the source's own example, completed there. -/
def paramsA : Params where
  reversed := false
  halfStep := true
  fullStepsPerRev := 2048
  secondsPerRev := 8
  homeNo := false
  gearRatio := 4
  hoursPerRev := 3
  cycleHours := 12
  pin0 := 0
  pin1 := 1
  pin2 := 2
  pin3 := 3
  calDwellLongUs := 5000000
  calDwellShortUs := 1000000
  calFailPolicy := .ignore

theorem paramsA_meets_contract : MeetsContract paramsA := by decide

/-- Configuration A, with its contract. The named reset state is built with it (log 1). -/
def configurationA : Configuration := ⟨paramsA, paramsA_meets_contract⟩

end Sys2Proof.Machine
end

