-- ==== Sys2Proof/Machine/State.lean ====
section
/-! DEFINITION. The machine's state as plain data (10_state.md R20, R29; 30_encoding.md R63 to R66), its reset value
(70_reset_and_hazards.md R161), and the reasons a step can stop. -/

namespace Sys2Proof.Machine

/-- The states of the homing state machine (10_state.md R25). -/
inductive HState where
  /-- Code 0: no HOME has started since reset. -/
  | idle
  /-- Code 1: HOME phase 1 is running. -/
  | seekingHomeForward
  /-- Code 2: HOME phase 2 is running. -/
  | backingOff
  /-- Code 3: HOME phase 3 is running. -/
  | reapproachingSlow
  /-- Code 4: the last HOME succeeded. -/
  | homed
  /-- Code 5: the last HOME failed in phase 1. -/
  | homePhase1Error
  /-- Code 6: the last HOME failed in phase 2. -/
  | homePhase2Error
  /-- Code 7: the last HOME failed in phase 3. -/
  | homePhase3Error
  deriving DecidableEq, Repr

/-- The three homing failures (60_exceptions.md R140, R141). -/
inductive HomeFailure where
  /-- `HomePhase1Error`: the sensor was not found within the phase-1 budget. -/
  | phase1
  /-- `HomePhase2Error`: the sensor could not be cleared. -/
  | phase2
  /-- `HomePhase3Error`: the sensor was lost between phases 2 and 3. -/
  | phase3
  deriving DecidableEq, Repr

/-- The speed selectors of `step` (30_encoding.md R58). -/
inductive Speed where
  | slow
  | auto
  | fast
  deriving DecidableEq, Repr

/-- The events of a trace (00_scope.md R15). -/
inductive Event where
  /-- `Set(m)`: the bank bits in the mask are asserted. -/
  | set (m : Bank)
  /-- `Clr(m)`: the bank bits in the mask are deasserted. -/
  | clr (m : Bank)
  /-- `Delay(d)`: `d` microseconds pass. -/
  | delay (us : Nat)
  /-- `Home?(raw)`: the home input was sampled and read `raw`. -/
  | homeSample (raw : Bool)
  /-- `Btn?(b)`: the button input was sampled and read `b`. -/
  | buttonSample (pressed : Bool)
  deriving DecidableEq, Repr

/-- One entry of the record of the status port: from when the running command had made `made` events, the port showed
`hstate` and `status` (30_encoding.md R65, 60_exceptions.md R155; log 3). -/
structure StatusShown where
  made : Nat
  hstate : HState
  status : BitVec 2
  deriving DecidableEq, Repr

/-- Why a step stops with a fault: nothing does. The spec gives every command word an effect (60_exceptions.md R140, R142,
R145: no failure is fatal), so no fault exists and none is raised (safe: there is nothing it could hide). -/
inductive Fault where
  deriving DecidableEq, Repr

/-- Why a step is refused. -/
inductive Refusal where
  /-- Raised by a rejected arm of `exec`, for an instruction without a meaning yet; no arm is rejected in this model
  (safe: it proves less). -/
  | notModelled (mnemonic : String)
  deriving DecidableEq, Repr

/-- The state. `cfg` is fixed at construction and written by no step (00_scope.md R7; log 1); the next group is R20's seven
items; the others are the ports, the work in flight and the record of what the running command did (INVENTORY.md,
"State"). -/
structure State where
  /-- The construction parameters (00_scope.md R7, R11; log 1). -/
  cfg : Configuration
  /-- `PHASE_IDX` (10_state.md R21). -/
  phaseIdx : BitVec 3
  /-- `LAST_MINUTES` (10_state.md R23). -/
  lastMinutes : BitVec 11
  /-- `LAST_POSITION` (10_state.md R24). -/
  lastPosition : BitVec 32
  /-- `HSTATE` (10_state.md R25). -/
  hstate : HState
  /-- `STATUS` (10_state.md R26). -/
  status : BitVec 2
  /-- `BUSY` (10_state.md R27). -/
  busy : Bool
  /-- `OUT`, the output bank; the CORE owns the four bits of `ALLMASK` (10_state.md R28, 20_memory.md R44). -/
  out : Bank
  /-- A CALIBRATE is in flight between two passes of its loop (10_state.md R29, 44_calibration.md R135; log 4). -/
  calibrating : Bool
  /-- The response port: the word delivered by the last step, if any (30_encoding.md R63, R66; log 7). -/
  response : Option Response
  /-- The block's reset input (70_reset_and_hazards.md R160; log 8). -/
  resetPin : Bool
  /-- A pulse of the reset input that comes when the machine has made this many more events: it cuts short the command in
  flight then (70_reset_and_hazards.md R160, R161; log 8). -/
  resetAfter : Option Nat
  /-- The words the host presents, one after another; the head is on the command port (30_encoding.md R66; log 6). -/
  presented : List Command
  /-- The levels of `HOME_RAW` at the next samples (20_memory.md R45 to R47; log 5). -/
  homeIn : List Bool
  /-- The levels of `BUTTON` at the next samples (20_memory.md R45 to R47; log 5). -/
  buttonIn : List Bool
  /-- How many samples were answered by a free value (the model's own counter; log 5). -/
  draws : Nat
  /-- The event trace of the command accepted last (00_scope.md R15). -/
  trace : List Event
  /-- What the status port has shown during that command: an entry for its acceptance and one for each write of `HSTATE`
  and `STATUS`, oldest first (60_exceptions.md R155; log 3). -/
  statusSeen : List StatusShown
  deriving DecidableEq, Repr

/-- The state right after reset of a machine built with the configuration `c` (70_reset_and_hazards.md R161), with its
inputs quiet (log 5, log 6, log 8) and the bank bits that are not the CORE's at 0 (log 9). -/
def State.resetWith (c : Configuration) : State where
  cfg := c
  phaseIdx := 0#3
  lastMinutes := 0#11
  lastPosition := 0#32
  hstate := .idle
  status := 0#2
  busy := false
  out := 0#32
  calibrating := false
  response := none
  resetPin := false
  resetAfter := none
  presented := []
  homeIn := []
  buttonIn := []
  draws := 0
  trace := []
  statusSeen := []

/-- The state right after reset, for configuration A (log 1). -/
def State.reset : State := State.resetWith configurationA

end Sys2Proof.Machine
end

