-- ==== Sys2Proof/Machine/Flags.lean ====
section
/-! DEFINITION. The codes of the status values and of HSTATE, the response word, and the status port (10_state.md R25,
R26; 30_encoding.md R63 to R65). The CORE has no other flags (10_state.md R28). -/

namespace Sys2Proof.Machine

/-- The 3-bit code of an `HSTATE` value (R25). -/
def hstateCode (h : HState) : BitVec 3 :=
  match h with
  | .idle => 0#3
  | .seekingHomeForward => 1#3
  | .backingOff => 2#3
  | .reapproachingSlow => 3#3
  | .homed => 4#3
  | .homePhase1Error => 5#3
  | .homePhase2Error => 6#3
  | .homePhase3Error => 7#3

/-- The status code of a homing failure (R64; 60_exceptions.md R141). -/
def failureCode (k : HomeFailure) : BitVec 2 :=
  match k with
  | .phase1 => 1#2
  | .phase2 => 2#2
  | .phase3 => 3#2

/-- The terminal state that records a homing failure (R25; 60_exceptions.md R144). -/
def failureState (k : HomeFailure) : HState :=
  match k with
  | .phase1 => .homePhase1Error
  | .phase2 => .homePhase2Error
  | .phase3 => .homePhase3Error

/-- The response word `ILLEGAL ++ 0 ++ VAL` (R63). -/
def responseWord (illegal : Bool) (val : BitVec 2) : Response :=
  BitVec.ofBool illegal ++ 0#1 ++ val

/-- `VAL` of a boolean answer: the result in bit 0, bit 1 is 0 (R63). -/
def boolVal (b : Bool) : BitVec 2 := 0#1 ++ BitVec.ofBool b

/-- What the status port shows (R65). -/
structure StatusView where
  busy : BitVec 1
  hstate : BitVec 3
  status : BitVec 2
  deriving DecidableEq, Repr

/-- The status port, readable at any time and without a command (R65): as it stands in the state `s`. What it has shown
during the command accepted last is `statusDuring`. -/
def statusView (s : State) : StatusView where
  busy := BitVec.ofBool s.busy
  hstate := hstateCode s.hstate
  status := s.status

/-- The entries of a record of the status port until `k` events were made (log 3). -/
def shownBy (k : Nat) (seen : List StatusShown) : List StatusShown := seen.filter fun e => decide (e.made ≤ k)

/-- What a host that watches the status port sees during the command accepted last, when `k` of its events have been made
and the next has not: `BUSY = 1` and the values of `HSTATE` and `STATUS` then; nothing for an event that never came
(R65; 60_exceptions.md R155; log 3). Before and after a command the port shows `statusView`. -/
def statusDuring (s : State) (k : Nat) : Option StatusView :=
  if k ≤ s.trace.length
    then (shownBy k s.statusSeen).getLast?.map fun e =>
      { busy := 1#1, hstate := hstateCode e.hstate, status := e.status }
    else none

/-- `CMD_READY = not BUSY` (R66). -/
def cmdReady (s : State) : Bool := !s.busy

/-- `RESP_VALID`: a response word stands on the port (R66). -/
def respValid (s : State) : Bool := s.response.isSome

/-- The states in which no HOME is running: `Idle` and the four terminal values (R25). -/
def atRest (h : HState) : Bool :=
  match h with
  | .idle => true
  | .seekingHomeForward => false
  | .backingOff => false
  | .reapproachingSlow => false
  | .homed => true
  | .homePhase1Error => true
  | .homePhase2Error => true
  | .homePhase3Error => true

/-- The `STATUS` value that goes with an `HSTATE` at rest (10_state.md R32). -/
def statusOfState (h : HState) : BitVec 2 :=
  match h with
  | .idle => 0#2
  | .seekingHomeForward => 0#2
  | .backingOff => 0#2
  | .reapproachingSlow => 0#2
  | .homed => 0#2
  | .homePhase1Error => 1#2
  | .homePhase2Error => 2#2
  | .homePhase3Error => 3#2

end Sys2Proof.Machine
end

