-- ==== Sys2Proof/Machine/Operands.lean ====
section
/-! DEFINITION. The operands of the commands: the signed step count of STEP (30_encoding.md R59, 40_stepper_driver.md R76)
and the time of UPDATE with the arithmetic of the position ring (42_time_update.md R97 to R103). Quantities are
mathematical integers (00_scope.md R14). -/

namespace Sys2Proof.Machine

/-- `steps = sext_32(ARG)` (30_encoding.md R59). -/
def stepCount (n : Operand) : Int := n.toInt

/-- The phase increment of one iteration: 1 forward, `P - 1` backward (40_stepper_driver.md R76). -/
def phaseIncrement (p : Params) (steps : Int) : Nat :=
  if 0 < steps then 1 else phaseCount p - 1

/-- `moc`, the minute of the cycle (42_time_update.md R97). -/
def minuteOfCycle (p : Params) (hour : BitVec 5) (minute : BitVec 6) : Nat :=
  hour.toNat % p.cycleHours * 60 + minute.toNat

/-- `target = (moc * S) div M` (42_time_update.md R99). -/
def targetPosition (p : Params) (moc : Nat) : Nat :=
  moc * stepsPerCycle p / minutesPerCycle p

/-- The shortest-path equivalent on the ring of `S` steps: both comparisons strict, in this order
(42_time_update.md R101; 90_conflicts.md C1). -/
def shortestPath (S : Nat) (delta : Int) : Int :=
  let delta := if delta > (S / 2 : Nat) then delta - S else delta
  if delta < -((S / 2 : Nat) : Int) then delta + S else delta

/-- The step count that UPDATE issues (42_time_update.md R99 to R101). -/
def updateDelta (p : Params) (moc lastPosition : Nat) : Int :=
  shortestPath (stepsPerCycle p) ((targetPosition p moc : Int) - lastPosition)

/-- `(LAST_POSITION + delta) mod S`, the non-negative remainder (42_time_update.md R103; 00_scope.md R14). -/
def positionAfter (p : Params) (lastPosition : Nat) (delta : Int) : Nat :=
  ((lastPosition + delta) % (stepsPerCycle p : Int)).toNat

end Sys2Proof.Machine
end

