-- ==== Sys2Proof/Machine/Ops.lean ====
section
/-! DEFINITION. The named operations the meanings share: register writes, the output bank, the delay timer, the input
samples, taking a homing failure, the response, and the ports. -/

namespace Sys2Proof.Machine

/-! ### Registers -/

/-- `PHASE_IDX <- i` (10_state.md R21). -/
def writePhaseIdx (i : Nat) (s : State) : State := { s with phaseIdx := BitVec.ofNat 3 i }

/-- `LAST_POSITION <- pos; LAST_MINUTES <- moc` (10_state.md R23, R24; 42_time_update.md R103). -/
def writePosition (pos moc : Nat) (s : State) : State :=
  { s with lastPosition := BitVec.ofNat 32 pos, lastMinutes := BitVec.ofNat 11 moc }

/-- `HSTATE <- h; STATUS <- code`: the status port shows them from here on (10_state.md R25, R26; 30_encoding.md R65). -/
def showStatus (h : HState) (code : BitVec 2) (s : State) : State :=
  { s with hstate := h, status := code, statusSeen := s.statusSeen ++ [⟨s.trace.length, h, code⟩] }

/-- `HSTATE <- h` (10_state.md R25). -/
def writeHState (h : HState) (s : State) : State := showStatus h s.status s

/-! ### The output bank -/

/-- The bank bit of logical pin `k`, wired to bit `pin`, in the mask of a pattern (20_memory.md R41). -/
def pinBit (pat : Pattern) (k : Nat) (pin : Fin 32) : Bank :=
  if pat.getLsbD k then 1#32 <<< pin.val else 0#32

/-- `PinMask(pat)` (20_memory.md R41). -/
def pinMask (p : Params) (pat : Pattern) : Bank :=
  pinBit pat 0 p.pin0 ||| pinBit pat 1 p.pin1 ||| pinBit pat 2 p.pin2 ||| pinBit pat 3 p.pin3

/-- `ALLMASK = PinMask(0b1111)` (20_memory.md R41). -/
def allMask (p : Params) : Bank := pinMask p 0b1111#4

/-- `GpioSet(m)` (20_memory.md R42). -/
def gpioSet (m : Bank) (s : State) : State :=
  { s with out := s.out ||| m, trace := s.trace ++ [.set m] }

/-- `GpioClear(m)` (20_memory.md R43). -/
def gpioClear (m : Bank) (s : State) : State :=
  { s with out := s.out &&& ~~~m, trace := s.trace ++ [.clr m] }

/-! ### The delay timer -/

/-- A trace with one more delay, in merged form: `Delay(a); Delay(b)` is `Delay(a + b)` (00_scope.md R16). -/
def mergeDelay (d : Nat) (trace : List Event) : List Event :=
  match trace with
  | [] => [.delay d]
  | [.delay a] => [.delay (a + d)]
  | e :: rest => e :: mergeDelay d rest

/-- A trace with one more delay; `Delay(0)` is no event (00_scope.md R16; log 12). -/
def delayedTrace (d : Nat) (trace : List Event) : List Event :=
  if d = 0 then trace else mergeDelay d trace

/-- `Delay(d)` (00_scope.md R16; 60_exceptions.md R149). -/
def delay (d : Nat) (s : State) : State := { s with trace := delayedTrace d s.trace }

/-! ### The input samples -/

/-- The answer of the environment to a sample: the next placed answer, else a free value (20_memory.md R47; log 5). -/
def nextAnswer (placed : List Bool) (free : Bool) : Bool :=
  match placed with
  | b :: _ => b
  | [] => free

/-- The counter of free values after a sample (log 5). -/
def drawsAfter (placed : List Bool) (draws : Nat) : Nat :=
  match placed with
  | _ :: _ => draws
  | [] => draws + 1

/-- The level of `HOME_RAW` that the next sample reads (20_memory.md R45 to R47). -/
def homeRaw (s : State) : Bool := nextAnswer s.homeIn (Config.homeDraw s.draws)

/-- The level of `BUTTON` that the next sample reads (20_memory.md R45 to R47). -/
def buttonLevel (s : State) : Bool := nextAnswer s.buttonIn (Config.buttonDraw s.draws)

/-- `ReadHomeRaw()` as a change of state: the answer is used up and the event recorded (20_memory.md R46). -/
def readHomeRaw (s : State) : State :=
  { s with homeIn := s.homeIn.tail, draws := drawsAfter s.homeIn s.draws, trace := s.trace ++ [.homeSample (homeRaw s)] }

/-- `ReadButton()` as a change of state (20_memory.md R46). -/
def readButton (s : State) : State :=
  { s with buttonIn := s.buttonIn.tail, draws := drawsAfter s.buttonIn s.draws, trace := s.trace ++ [.buttonSample (buttonLevel s)] }

/-! ### Taking a homing failure -/

/-- `raise HomePhase<k>Error` (60_exceptions.md R144): the one operation by which every homing failure is taken. It saves
nothing, moves nothing and goes nowhere; the response is the running command's business. There is no return from it (R145). -/
def raiseHomeFailure (k : HomeFailure) (s : State) : State :=
  showStatus (failureState k) (failureCode k) s

/-! ### Command port, response port and reset -/

/-- Acceptance of the presented word: `BUSY <- 1`, the word leaves the port and the command's record begins, with what the
status port shows now (30_encoding.md R65, R66; log 3). -/
def accept (s : State) : State :=
  { s with
    busy := true
    presented := s.presented.tail
    response := none
    trace := []
    statusSeen := [⟨0, s.hstate, s.status⟩] }

/-- `respond(w)`: the response word is delivered and `BUSY <- 0` (30_encoding.md R63, R66). -/
def respond (w : Response) (s : State) : State :=
  { s with response := some w, busy := false, calibrating := false }

/-- The answer to an illegal word: `ILLEGAL = 1`, `VAL = 0`, nothing else (30_encoding.md R62, 60_exceptions.md R142). -/
def answerIllegal (s : State) : State := respond (responseWord true 0#2) s

/-- A CALIBRATE goes on: no response yet, `BUSY` stays 1 (44_calibration.md R135; log 4). -/
def stayInFlight (s : State) : State := { s with busy := true, calibrating := true }

/-- Nothing to run: the CORE waits, and a response that was on the port has been transferred (70_reset_and_hazards.md
R161, 30_encoding.md R66; log 7). -/
def waitStep (s : State) : State := { s with response := none }

/-- The reset event (70_reset_and_hazards.md R161): the seven items of 10_state.md R20 at their reset values, the command
in flight abandoned without a response, no events. The configuration and the outside world's inputs are not the CORE's,
nor are the other bits of the bank (log 8, log 9). -/
def resetEvent (s : State) : State :=
  { State.resetWith s.cfg with
    out := s.out &&& ~~~(allMask s.cfg.val)
    resetPin := s.resetPin
    resetAfter := s.resetAfter
    presented := s.presented
    homeIn := s.homeIn
    buttonIn := s.buttonIn
    draws := s.draws }

/-- An event is a sample of the home input. -/
def isHomeSample (e : Event) : Bool :=
  match e with
  | .homeSample _ => true
  | .buttonSample _ => false
  | .set _ => false
  | .clr _ => false
  | .delay _ => false

/-- An event is a sample of the button. -/
def isButtonSample (e : Event) : Bool :=
  match e with
  | .buttonSample _ => true
  | .homeSample _ => false
  | .set _ => false
  | .clr _ => false
  | .delay _ => false

/-- The state in which the samples of the events `made` have used up their answers (20_memory.md R46; log 5). -/
def useAnswers (made : List Event) (s : State) : State :=
  let home := (made.filter isHomeSample).length
  let button := (made.filter isButtonSample).length
  { s with
    homeIn := s.homeIn.drop home
    buttonIn := s.buttonIn.drop button
    draws := s.draws + (home - s.homeIn.length) + (button - s.buttonIn.length) }

/-- The reset event on a command that began in `s` and has made the events `made`: it is abandoned without a response; its
events so far have happened, and the reset itself makes none. What the status port showed until then, of the record `seen`
that the whole command would have left, stays on record (70_reset_and_hazards.md R161, 60_exceptions.md R155; log 3, log 8).
-/
def abandon (made : List Event) (seen : List StatusShown) (s : State) : State :=
  { resetEvent (useAnswers made s) with
    resetAfter := none
    trace := s.trace ++ made
    statusSeen := shownBy (s.trace.length + made.length) seen }

/-! ### What the outside world can do between steps -/

/-- The host presents one more word after those it already presents (30_encoding.md R66). -/
def present (w : Command) (s : State) : State := { s with presented := s.presented ++ [w] }

/-- The host withdraws the word that waits on the port (30_encoding.md R66). -/
def withdraw (s : State) : State := { s with presented := s.presented.tail }

/-- The environment's answers to the next samples (20_memory.md R47). -/
def withAnswers (home button : List Bool) (s : State) : State := { s with homeIn := home, buttonIn := button }

/-- The reset input is driven to a level (70_reset_and_hazards.md R160). -/
def driveReset (level : Bool) (s : State) : State := { s with resetPin := level }

/-- The reset input is pulsed when `k` more events have been made (70_reset_and_hazards.md R160; log 8). -/
def pulseReset (k : Nat) (s : State) : State := { s with resetAfter := some k }

end Sys2Proof.Machine
end

