-- ==== Sys2Proof/Machine/SensorPort.lean ====
section
/-! DEFINITION. The Home Sensor Port (41_home_sensor_port.md): the two sampled inputs and the two query commands. -/

namespace Sys2Proof.Machine

/-- What `is_home()` answers at the next sample: `raw xor HOME_NO` (R90). -/
def homeActive (s : State) : Bool := xor (homeRaw s) s.cfg.val.homeNo

/-- `is_home()`: the answer and the state after the sample (R90). -/
def sampleHome (s : State) : Bool × State := (homeActive s, readHomeRaw s)

/-- `is_button_pressed()`: the answer and the state after the sample (R91). -/
def sampleButton (s : State) : Bool × State := (buttonLevel s, readButton s)

/-- IS_HOME (R90). -/
def execIsHome (s : State) : Host.Outcome State Fault Refusal :=
  .next (respond (responseWord false (boolVal (sampleHome s).1)) (sampleHome s).2)

/-- IS_BUTTON (R91). -/
def execIsButton (s : State) : Host.Outcome State Fault Refusal :=
  .next (respond (responseWord false (boolVal (sampleButton s).1)) (sampleButton s).2)

end Sys2Proof.Machine
end

