-- ==== Sys2Proof/Machine/Stepper.lean ====
section
/-! DEFINITION. The Stepper Driver (40_stepper_driver.md): the phase table, the delay policies, the `step` primitive and
the three STEP commands. -/

namespace Sys2Proof.Machine

/-- `T4`, the full-step table (R71). -/
def fullStepTable : List Pattern := [0b0001#4, 0b0010#4, 0b0100#4, 0b1000#4]

/-- `T8`, the half-step table (R72). -/
def halfStepTable : List Pattern :=
  [0b0001#4, 0b0011#4, 0b0010#4, 0b0110#4, 0b0100#4, 0b1100#4, 0b1000#4, 0b1001#4]

/-- The table of the configuration (R71, R72). -/
def phaseTable (p : Params) : List Pattern := if p.halfStep then halfStepTable else fullStepTable

/-- `PhasePattern(i)`, for `i < P` (R73). -/
def phasePattern (p : Params) (i : Nat) : Pattern :=
  (phaseTable p).getD (if p.reversed then phaseCount p - 1 - i else i) 0#4

/-- `a(k) = [k < 20] + [k < 10] + [k < 5]` (R81). -/
def rampUnits (k : Nat) : Nat :=
  (if k < 20 then 1 else 0) + (if k < 10 then 1 else 0) + (if k < 5 then 1 else 0)

/-- `units(speed, j, n)`: the rapid delays that iteration `j` of `n` waits (R79, R80, R81). -/
def delayUnits (speed : Speed) (j n : Nat) : Nat :=
  match speed with
  | .slow => 5
  | .auto => 1 + rampUnits j + rampUnits (n - j)
  | .fast => 1

/-- One iteration of `step` (R77): advance the phase index, assert its pattern, wait, deassert all. -/
def pulse (speed : Speed) (inc j n : Nat) (s : State) : State :=
  let i := (s.phaseIdx.toNat + inc) % phaseCount s.cfg.val
  gpioClear (allMask s.cfg.val)
    (delay (delayUnits speed j n * rapidDelayUs s.cfg.val)
      (gpioSet (pinMask s.cfg.val (phasePattern s.cfg.val i)) (writePhaseIdx i s)))

/-- The last `k` of `n` iterations of `step` (R77): the next one has index `j = n - k`. -/
def pulses (speed : Speed) (inc n : Nat) : Nat → State → State
  | 0, s => s
  | k + 1, s => pulses speed inc n k (pulse speed inc (n - (k + 1)) n s)

/-- The primitive `step(steps, speed)` (R75 to R78). -/
def stepMotor (steps : Int) (speed : Speed) (s : State) : State :=
  if steps = 0 then gpioClear (allMask s.cfg.val) s
  else pulses speed (phaseIncrement s.cfg.val steps) steps.natAbs steps.natAbs s

/-- STEP.SLOW (R74, R79): the move, then the response 0. -/
def execStepSlow (n : Operand) (s : State) : Host.Outcome State Fault Refusal :=
  .next (respond (responseWord false 0#2) (stepMotor (stepCount n) .slow s))

/-- STEP.AUTO (R74, R81). -/
def execStepAuto (n : Operand) (s : State) : Host.Outcome State Fault Refusal :=
  .next (respond (responseWord false 0#2) (stepMotor (stepCount n) .auto s))

/-- STEP.FAST (R74, R80). -/
def execStepFast (n : Operand) (s : State) : Host.Outcome State Fault Refusal :=
  .next (respond (responseWord false 0#2) (stepMotor (stepCount n) .fast s))

end Sys2Proof.Machine
end

