-- ==== Sys2Proof/Machine/Homing.lean ====
section
/-! DEFINITION. The homing state machine (43_homing.md): HOME. Each phase is a loop over the steps that are left of its
budget; it answers whether the phase succeeded, and the state it left. -/

namespace Sys2Proof.Machine

/-- The loop of phase 1 (R112, R113) with `k` steps of budget left: the budget test, a fast step forward, a sample. -/
def seekHome : Nat → State → Bool × State
  | 0, s => (false, s)
  | k + 1, s =>
    let r := sampleHome (stepMotor 1 .fast s)
    if r.1 then (true, r.2) else seekHome k r.2

/-- The loop of phase 2 (R114, R115) with `k` steps of budget left: a sample, the budget test, a fast step backward. -/
def backOff : Nat → State → Bool × State
  | 0, s => let r := sampleHome s; (!r.1, r.2)
  | k + 1, s =>
    let r := sampleHome s
    if r.1 then backOff k (stepMotor (-1) .fast r.2) else (true, r.2)

/-- The loop of phase 3 (R116, R117) with `k` steps of budget left: a sample, the budget test, a slow step forward. -/
def reapproach : Nat → State → Bool × State
  | 0, s => sampleHome s
  | k + 1, s =>
    let r := sampleHome s
    if r.1 then (true, r.2) else reapproach k (stepMotor 1 .slow r.2)

/-- Success (R118). -/
def homeReached (s : State) : State := writePosition 0 0 (showStatus .homed 0#2 s)

/-- Phase 3 and the end of HOME (R116 to R118). -/
def homePhase3 (s : State) : State :=
  let r := reapproach (stepsPerHour s.cfg.val) (writeHState .reapproachingSlow s)
  if r.1 then homeReached r.2 else raiseHomeFailure .phase3 r.2

/-- Phase 2 and what follows it (R114, R115). -/
def homePhase2 (s : State) : State :=
  let r := backOff (stepsPerHour s.cfg.val) (writeHState .backingOff s)
  if r.1 then homePhase3 r.2 else raiseHomeFailure .phase2 r.2

/-- `HOME_body`: HOME without its response (R110 to R118; 44_calibration.md R130). Its result is in `STATUS`. -/
def homeBody (s : State) : State :=
  let r := seekHome (stepsPerCycle s.cfg.val + stepsPerHour s.cfg.val) (writeHState .seekingHomeForward s)
  if r.1 then homePhase2 r.2 else raiseHomeFailure .phase1 r.2

/-- HOME (R110): the body, then the status code as the response (30_encoding.md R63, R64). -/
def execHome (s : State) : Host.Outcome State Fault Refusal :=
  .next (respond (responseWord false (homeBody s).status) (homeBody s))

end Sys2Proof.Machine
end

