-- ==== Sys2Proof/Machine/Calibration.lean ====
section
/-! DEFINITION. The calibration loop (44_calibration.md): CALIBRATE. One step runs one pass of the loop; while no button
sample reads 1 the command stays in flight and the next step runs the next pass (R135; log 4). -/

namespace Sys2Proof.Machine

/-- The end of CALIBRATE: the response 0 however it went (R137). -/
def endCalibrate (s : State) : State := respond (responseWord false 0#2) s

/-- The abort check after a sub-move (R131): a sample that reads 1 ends CALIBRATE at once, else the loop goes on. -/
def abortCheck (s : State) (goOn : State → State) : State :=
  let r := sampleButton s
  if r.1 then endCalibrate r.2 else goOn r.2

/-- Sub-move 4, the shorter dwell, with its abort check; then the pass is over and the loop wraps (R130, R134). -/
def calibrateShortDwell (s : State) : State :=
  abortCheck (delay s.cfg.val.calDwellShortUs s) stayInFlight

/-- Sub-move 3, one hour's steps back in one call (R132), and the rest of the pass. -/
def calibrateBackMove (s : State) : State :=
  abortCheck (stepMotor (-(stepsPerHour s.cfg.val : Int)) .fast s) calibrateShortDwell

/-- Sub-move 2, the dwell for inspection (R134), and the rest of the pass. -/
def calibrateLongDwell (s : State) : State :=
  abortCheck (delay s.cfg.val.calDwellLongUs s) calibrateBackMove

/-- With `CAL_FAIL_POLICY = Abort`, a HOME that failed ends the loop (R130, R133). -/
def abortOnFailure (s : State) : Bool := decide (s.cfg.val.calFailPolicy = .abort) && decide (s.status ≠ 0#2)

/-- One pass of the loop (R130): sub-move 1 is HOME, whose status is otherwise ignored (R133). -/
def calibratePass (s : State) : State :=
  let h := homeBody s
  if abortOnFailure h then endCalibrate h else abortCheck h calibrateLongDwell

/-- CALIBRATE (R130): the first pass of the loop. -/
def execCalibrate (s : State) : Host.Outcome State Fault Refusal := .next (calibratePass s)

/-- The next pass of a CALIBRATE in flight (R135; log 4). -/
def resumeCalibrate (s : State) : State := calibratePass (waitStep s)

end Sys2Proof.Machine
end

