-- ==== Sys2Proof/Machine/TimeUpdate.lean ====
section
/-! DEFINITION. Clock Mechanics time update (42_time_update.md): UPDATE. -/

namespace Sys2Proof.Machine

/-- Steps 6 and 7 of UPDATE for the minute of cycle `moc` (R102, R103): the move, then both registers. -/
def moveToMinute (moc : Nat) (s : State) : State :=
  let delta := updateDelta s.cfg.val moc s.lastPosition.toNat
  writePosition (positionAfter s.cfg.val s.lastPosition.toNat delta) moc (stepMotor delta .auto s)

/-- The body of UPDATE without its response (R96, R98): nothing when the minute of the cycle has not changed. -/
def updateBody (moc : Nat) (s : State) : State :=
  if moc = s.lastMinutes.toNat then s else moveToMinute moc s

/-- UPDATE (R96). Operands outside 0..23 and 0..59 are those of an illegal word (30_encoding.md R60, R62) and are answered
as one; the decoder never yields them (R107; log 13). -/
def execUpdate (hour : BitVec 5) (minute : BitVec 6) (s : State) : Host.Outcome State Fault Refusal :=
  .next (if hourInRange hour && minuteInRange minute
    then respond (responseWord false 0#2) (updateBody (minuteOfCycle s.cfg.val hour minute) s)
    else answerIllegal s)

end Sys2Proof.Machine
end

