-- ==== Sys2Proof/Machine/Dispatch.lean ====
section
/-! DEFINITION. `exec`: the meaning of each command form (30_encoding.md R69), one arm per constructor. -/

namespace Sys2Proof.Machine

def exec (i : Instr) (s : State) : Host.Outcome State Fault Refusal :=
  match i with
  | .stepSlow n => Sys2Proof.Machine.execStepSlow n s
  | .stepAuto n => Sys2Proof.Machine.execStepAuto n s
  | .stepFast n => Sys2Proof.Machine.execStepFast n s
  | .update hour minute => Sys2Proof.Machine.execUpdate hour minute s
  | .home => Sys2Proof.Machine.execHome s
  | .calibrate => Sys2Proof.Machine.execCalibrate s
  | .isHome => Sys2Proof.Machine.execIsHome s
  | .isButton => Sys2Proof.Machine.execIsButton s

end Sys2Proof.Machine
end

