-- ==== Sys2Proof/Machine/Port.lean ====
section
/-! DEFINITION. What the command port does with the word it accepts (30_encoding.md R62, R66), and the placing of a word
where the next step fetches it (log 6). -/

namespace Sys2Proof.Machine

/-- The accepted word is decoded before anything is executed (60_exceptions.md R147): a legal word runs its command, an
illegal one is answered and has no effect. -/
def runWord (w : Command) (s : State) : Host.Outcome State Fault Refusal :=
  match decode w with
  | .instr i => exec i s
  | .illegal _ => .next (answerIllegal s)

/-- The events that a command or a pass has made since the state `u` in which it began (00_scope.md R15). -/
def eventsSince (u t : State) : List Event := t.trace.drop u.trace.length

/-- A command or a pass that began in `u` and would end in `t`, under a reset pulse: the pulse cuts it short when it makes
more events than the pulse waits for, and else waits for the rest (70_reset_and_hazards.md R161; log 8). -/
def underReset (u t : State) : State :=
  match u.resetAfter with
  | none => t
  | some k =>
    if k < (eventsSince u t).length then abandon ((eventsSince u t).take k) t.statusSeen u
    else { t with resetAfter := some (k - (eventsSince u t).length) }

/-- The outcome of a command or a pass that began in `u`, under a reset pulse. -/
def cutShort (u : State) (o : Host.Outcome State Fault Refusal) : Host.Outcome State Fault Refusal :=
  match o with
  | .next t => .next (underReset u t)
  | .fault r => .fault r
  | .refused r => .refused r

/-- A ready CORE: it accepts the presented word, or waits for one (30_encoding.md R66, 70_reset_and_hazards.md R161). -/
def readyStep (s : State) : Host.Outcome State Fault Refusal :=
  match s.presented with
  | [] => .next (waitStep s)
  | w :: _ => cutShort (accept s) (runWord w (accept s))

/-- A busy CORE between two steps: a CALIBRATE goes on; nothing is accepted (30_encoding.md R66; log 4, log 14). -/
def busyStep (s : State) : State :=
  if s.calibrating then underReset (waitStep s) (resumeCalibrate s) else waitStep s

/-- `s` with the word `w` on the command port and nothing in the way of its acceptance: reset released and no command in
flight (log 6). -/
def placeWord (w : Command) (s : State) : State :=
  { s with presented := w :: s.presented.tail, busy := false, calibrating := false, resetPin := false, resetAfter := none }

end Sys2Proof.Machine
end

