-- ==== Sys2Proof/Machine/Step.lean ====
section
/-! DEFINITION. One step of the machine: the reset event while the reset input is asserted (70_reset_and_hazards.md R161),
else the next pass of a command in flight, else the presented command from acceptance to response (30_encoding.md R66), or to
the reset pulse that cuts it short. -/

namespace Sys2Proof.Machine

/-- One step. -/
def step (s : State) : Host.Outcome State Fault Refusal :=
  if s.resetPin then .next (resetEvent s)
  else if s.busy then .next (busyStep s)
  else readyStep s

/-- The state whose next step accepts and runs the word with the bits of `w` (log 6). -/
def State.withFetchWord (s : State) (nbits w : Nat) : State := placeWord (tableWord nbits w) s

end Sys2Proof.Machine
end

