-- ==== Sys2Proof/Safety.lean ====
section
/-! DEFINITION. What holds between the steps of a sound run (10_state.md R32), and what a trace must satisfy. -/

namespace Sys2Proof.Machine

/-- R32: `PHASE_IDX`, `LAST_MINUTES` and `LAST_POSITION` are in range and the position is the one computed fresh from the
minute. -/
abbrev PositionInv (s : State) : Prop :=
  s.phaseIdx.toNat < phaseCount s.cfg.val ∧
  s.lastMinutes.toNat < minutesPerCycle s.cfg.val ∧
  s.lastPosition.toNat < stepsPerCycle s.cfg.val ∧
  s.lastPosition.toNat = s.lastMinutes.toNat * stepsPerCycle s.cfg.val / minutesPerCycle s.cfg.val

/-- R32: the four phase outputs are 0. -/
abbrev OutputsReleased (s : State) : Prop := s.out &&& allMask s.cfg.val = 0#32

/-- R32: no HOME is half-way, and `STATUS` is the one that goes with `HSTATE`. -/
abbrev StatusInv (s : State) : Prop := atRest s.hstate = true ∧ s.status = statusOfState s.hstate

/-- R32 says `BUSY = 0` after every command; between two passes of a CALIBRATE in flight it is 1 (R135; log 4). -/
abbrev BusyInv (s : State) : Prop := s.busy = s.calibrating

/-- The invariant of R32. -/
abbrev CoreInv (s : State) : Prop := PositionInv s ∧ OutputsReleased s ∧ StatusInv s ∧ BusyInv s

/-- The bank after a trace, from the bank before it (20_memory.md R42, R43). -/
def bankAfter (trace : List Event) (bank : Bank) : Bank :=
  match trace with
  | [] => bank
  | .set m :: rest => bankAfter rest (bank ||| m)
  | .clr m :: rest => bankAfter rest (bank &&& ~~~m)
  | .delay _ :: rest => bankAfter rest bank
  | .homeSample _ :: rest => bankAfter rest bank
  | .buttonSample _ :: rest => bankAfter rest bank

/-- An event is a sample of an input. -/
def isSample (e : Event) : Bool :=
  match e with
  | .homeSample _ => true
  | .buttonSample _ => true
  | .set _ => false
  | .clr _ => false
  | .delay _ => false

/-- An event is an assertion of a phase pattern: one per phase-step (40_stepper_driver.md R77). -/
def isPulse (e : Event) : Bool :=
  match e with
  | .set _ => true
  | .clr _ => false
  | .delay _ => false
  | .homeSample _ => false
  | .buttonSample _ => false

/-- The duration of a trace in microseconds: the sum of its delays (00_scope.md R16, 70_reset_and_hazards.md R174). -/
def totalDelay (trace : List Event) : Nat :=
  match trace with
  | [] => 0
  | .delay d :: rest => d + totalDelay rest
  | .set _ :: rest => totalDelay rest
  | .clr _ :: rest => totalDelay rest
  | .homeSample _ :: rest => totalDelay rest
  | .buttonSample _ :: rest => totalDelay rest

/-- How many phase-steps a trace makes. -/
def pulseCount (trace : List Event) : Nat := (trace.filter isPulse).length

/-- How many samples a trace takes. -/
def sampleCount (trace : List Event) : Nat := (trace.filter isSample).length

/-! ### What a move does, in closed form

The recursion of `step` (40_stepper_driver.md R77) is in Machine/Stepper.lean; here a move is described as a whole, for
statements about the commands that make moves. -/

/-- The rapid delays that iteration `j` of an Auto move of `n` steps waits, as R81 writes them. -/
def autoUnits (j n : Nat) : Nat :=
  1 + (if j < 20 then 1 else 0) + (if j < 10 then 1 else 0) + (if j < 5 then 1 else 0) +
    (if n - j < 20 then 1 else 0) + (if n - j < 10 then 1 else 0) + (if n - j < 5 then 1 else 0)

/-- The phase index `k` steps after `start` (R84). -/
def phaseAfter (p : Params) (start : Nat) (k : Int) : Nat := (((start : Int) + k) % (phaseCount p : Int)).toNat

/-- The events of `Delay(d)`: none when `d = 0` (00_scope.md R16). -/
def delayEvents (d : Nat) : List Event := if d = 0 then [] else [.delay d]

/-- The events of one iteration of `step` (R77): the pattern of index `i` asserted for `us` microseconds. -/
def pulseEvents (p : Params) (i us : Nat) : List Event :=
  .set (pinMask p (phasePattern p i)) :: (delayEvents us ++ [.clr (allMask p)])

/-- +1 for a forward move, -1 for a backward one (R76, R85). -/
def moveSign (steps : Int) : Int := if 0 < steps then 1 else -1

/-- The events of a move of `steps` steps from phase index `start` (R75, R76, R77): iteration `j` of `n` asserts the pattern
`j + 1` places on in the direction of the move and waits `units j n` rapid delays. -/
def moveEvents (p : Params) (units : Nat → Nat → Nat) (start : Nat) (steps : Int) : List Event :=
  if steps = 0 then [.clr (allMask p)]
  else (List.range steps.natAbs).flatMap fun (j : Nat) =>
    pulseEvents p (phaseAfter p start (moveSign steps * ((j : Int) + 1))) (units j steps.natAbs * rapidDelayUs p)

/-- `PHASE_IDX` after `step(steps, _)` (R75, R84). -/
def phaseIdxAfter (p : Params) (idx : BitVec 3) (steps : Int) : BitVec 3 :=
  if steps = 0 then idx else BitVec.ofNat 3 (phaseAfter p idx.toNat steps)

/-- The bank with the four phase outputs deasserted (20_memory.md R43, 40_stepper_driver.md R78). -/
def releasedBank (p : Params) (bank : Bank) : Bank := bank &&& ~~~(allMask p)

/-! ### What a HOME does when its samples are given, in closed form -/

/-- The raw level that `is_home()` reads as the answer `b` (41_home_sensor_port.md R90: `raw = b xor HOME_NO`). -/
def rawLevel (p : Params) (b : Bool) : Bool := xor b p.homeNo

/-- The answers of `is_home()` in a loop that reads `b` `n` times and then reads the other value. -/
def answersOf (b : Bool) (n : Nat) : List Bool := List.replicate n b ++ [!b]

/-- One step in the direction `dir`, held for `us` microseconds, and one sample of `is_home()`, for each given answer. -/
def stepSampleEvents (p : Params) (dir : Int) (us start : Nat) (answers : List Bool) : List Event :=
  match answers with
  | [] => []
  | b :: rest =>
    pulseEvents p (phaseAfter p start dir) us ++
      .homeSample (rawLevel p b) :: stepSampleEvents p dir us (phaseAfter p start dir) rest

/-- The events of phase 1 from phase index `start` (43_homing.md R112): fast steps forward, a sample after each. -/
def seekEvents (p : Params) (start : Nat) (answers : List Bool) : List Event :=
  stepSampleEvents p 1 (rapidDelayUs p) start answers

/-- A sample on entry, then one step and one sample for each further answer. -/
def sampleStepEvents (p : Params) (dir : Int) (us start : Nat) (answers : List Bool) : List Event :=
  match answers with
  | [] => []
  | b :: rest => .homeSample (rawLevel p b) :: stepSampleEvents p dir us start rest

/-- The events of phase 2 from phase index `start` (R114): a sample on entry, then fast steps backward with a sample after
each. -/
def backOffEvents (p : Params) (start : Nat) (answers : List Bool) : List Event :=
  sampleStepEvents p (-1) (rapidDelayUs p) start answers

/-- The events of phase 3 from phase index `start` (R116): a sample on entry, then slow steps forward with a sample after
each. -/
def reapproachEvents (p : Params) (start : Nat) (answers : List Bool) : List Event :=
  sampleStepEvents p 1 (5 * rapidDelayUs p) start answers

/-! ### What a pass of CALIBRATE does after its HOME, in closed form -/

/-- The events of the sub-move before the abort check number `i` (44_calibration.md R130): none before the check after HOME,
the long dwell, the `H` fast steps back from phase index `start`, the short dwell. -/
def subMoveEvents (p : Params) (start i : Nat) : List Event :=
  match i with
  | 0 => []
  | 1 => delayEvents p.calDwellLongUs
  | 2 => moveEvents p (fun _ _ => 1) start (-(stepsPerHour p : Int))
  | _ => delayEvents p.calDwellShortUs

/-- The events of a pass after its HOME when the abort checks number `i`, `i + 1`, ... read the given levels (R131). -/
def checkEvents (p : Params) (start i : Nat) (presses : List Bool) : List Event :=
  match presses with
  | [] => []
  | b :: rest => subMoveEvents p start i ++ .buttonSample b :: checkEvents p start (i + 1) rest

/-- A run is safe when no step of it stops: the machine gives every word an effect (60_exceptions.md R145). -/
def Answers (o : Host.Outcome State Fault Refusal) : Bool :=
  match o with
  | .next _ => true
  | .fault _ => false
  | .refused _ => false

end Sys2Proof.Machine
end

