-- ==== Sys2Proof/Certificates/Slice0/Obligations.lean ====
section
/-! DEFINITION. The statements about the model (OBLIGATIONS.json). A statement about a command says the whole next state, so
that what it does not name is unchanged; `s.cfg` ranges over every configuration that meets the contract of
00_scope.md R11, and `homeIn`, `buttonIn` over every sequence of the environment's answers (20_memory.md R47). -/

open Sys2Proof Sys2Proof.Machine

/-! ### Encoding -/

/-- Words written out in 30_encoding.md section 7 and 95_test_vectors.md section 9, and illegal ones. -/
def Obligations.DecodeOfWrittenWords : Prop :=
  decode 0x3000000003#40 = .instr (.stepFast 3#32) ∧
  decode 0x30FFFFFFFD#40 = .instr (.stepFast (BitVec.ofInt 32 (-3))) ∧
  decode 0x2000000001#40 = .instr (.stepSlow 1#32) ∧
  decode 0x2800000005#40 = .instr (.stepAuto 5#32) ∧
  decode 0x4000000181#40 = .instr (.update 6#5 1#6) ∧
  decode 0x40000005FB#40 = .instr (.update 23#5 59#6) ∧
  decode 0x6000000000#40 = .instr .home ∧
  decode 0x8000000000#40 = .instr .calibrate ∧
  decode 0xA000000000#40 = .instr .isHome ∧
  decode 0xC000000000#40 = .instr .isButton ∧
  decode 0x3800000001#40 = .illegal .reservedSpeed ∧
  decode 0x4000000600#40 = .illegal .hourOutOfRange ∧
  decode 0x400000003C#40 = .illegal .minuteOutOfRange ∧
  decode 0x6800000000#40 = .illegal .speedOnOtherCommand

/-- R69: a word that matches a row of the table decodes to the row's form with the row's operand bits (for UPDATE when hour
and minute are in range), and a word is legal exactly when it matches a row. -/
def Obligations.TableRowsDecode : Prop :=
  ∀ w : Command,
    (w &&& 0xFF00000000#40 = 0x2000000000#40 → decode w = .instr (.stepSlow (w.extractLsb' 0 32))) ∧
    (w &&& 0xFF00000000#40 = 0x2800000000#40 → decode w = .instr (.stepAuto (w.extractLsb' 0 32))) ∧
    (w &&& 0xFF00000000#40 = 0x3000000000#40 → decode w = .instr (.stepFast (w.extractLsb' 0 32))) ∧
    (w &&& 0xFFFFFFF800#40 = 0x4000000000#40 → (w.extractLsb' 6 5).toNat ≤ 23 → (w.extractLsb' 0 6).toNat ≤ 59 →
      decode w = .instr (.update (w.extractLsb' 6 5) (w.extractLsb' 0 6))) ∧
    (w &&& 0xFFFFFFFFFF#40 = 0x6000000000#40 → decode w = .instr .home) ∧
    (w &&& 0xFFFFFFFFFF#40 = 0x8000000000#40 → decode w = .instr .calibrate) ∧
    (w &&& 0xFFFFFFFFFF#40 = 0xA000000000#40 → decode w = .instr .isHome) ∧
    (w &&& 0xFFFFFFFFFF#40 = 0xC000000000#40 → decode w = .instr .isButton) ∧
    ((∃ i, decode w = .instr i) ↔
      w &&& 0xFF00000000#40 = 0x2000000000#40 ∨ w &&& 0xFF00000000#40 = 0x2800000000#40 ∨
      w &&& 0xFF00000000#40 = 0x3000000000#40 ∨
      (w &&& 0xFFFFFFF800#40 = 0x4000000000#40 ∧ (w.extractLsb' 6 5).toNat ≤ 23 ∧ (w.extractLsb' 0 6).toNat ≤ 59) ∨
      w = 0x6000000000#40 ∨ w = 0x8000000000#40 ∨ w = 0xA000000000#40 ∨ w = 0xC000000000#40)

/-- Decode of encode is the instruction, for every well-formed instruction. -/
def Obligations.DecodeEncode : Prop := ∀ i : Instr, i.wellFormed = true → decode (encode i) = .instr i

/-- Every legal word is the encoding of the instruction it decodes to, and that instruction is well-formed. -/
def Obligations.EncodeDecode : Prop :=
  ∀ (w : Command) (i : Instr), decode w = .instr i → encode i = w ∧ i.wellFormed = true

/-! ### Acceptance -/

/-- A ready CORE with a legal word on the port runs the word's command in the state that acceptance leaves, when no reset
pulse is on its way (30_encoding.md R66; that the record of the previous command gives way to a new one, which begins with
what the status port shows now, is the model's own, log 3 and log 7). -/
def Obligations.StepRunsDecodedInstruction : Prop :=
  ∀ (s : State) (w : Command) (rest : List Command) (i : Instr),
    s.resetPin = false → s.resetAfter = none → s.busy = false → s.presented = w :: rest → decode w = .instr i →
    step s = exec i { s with
      busy := true, presented := rest, response := none, trace := [], statusSeen := [⟨0, s.hstate, s.status⟩] }

/-- The fetch word of the interface (log 6; what acceptance leaves is log 3 and log 7): the next step runs exactly the
instruction that the word encodes. -/
def Obligations.FetchedWordRuns : Prop :=
  ∀ (s : State) (i : Instr), i.wellFormed = true →
    step (s.withFetchWord 40 (encode i).toNat) = exec i { s with
      busy := true, calibrating := false, resetPin := false, resetAfter := none, presented := s.presented.tail,
      response := none, trace := [], statusSeen := [⟨0, s.hstate, s.status⟩] }

/-- An illegal word is accepted, changes nothing, makes no event and is answered `ILLEGAL = 1`, `VAL = 0` (30_encoding.md
R62, the spec's decision D21; its record is log 3). -/
def Obligations.IllegalWordHasNoEffect : Prop :=
  ∀ (s : State) (w : Command) (rest : List Command) (why : IllegalWord),
    s.resetPin = false → s.busy = false → s.presented = w :: rest → decode w = .illegal why →
    step s = .next { s with
      busy := false, calibrating := false, presented := rest, response := some 0b1000#4, trace := [],
      statusSeen := [⟨0, s.hstate, s.status⟩] }

/-- Log 13: UPDATE with an operand out of range, which no legal word carries, is answered as an illegal word. -/
def Obligations.UpdateOutOfRangeIsIllegal : Prop :=
  ∀ (s : State) (hour : BitVec 5) (minute : BitVec 6), 23 < hour.toNat ∨ 59 < minute.toNat →
    exec (.update hour minute) s = .next { s with busy := false, calibrating := false, response := some 0b1000#4 }

/-- While `BUSY = 1` nothing is accepted: the presented words stay, whatever the step does (30_encoding.md R66, the spec's
decision D20). -/
def Obligations.BusyAcceptsNothing : Prop :=
  ∀ s t : State, s.busy = true → step s = .next t → t.presented = s.presented

/-- With nothing presented the CORE waits: no event, no state change; a response on the port has been transferred (log 7). -/
def Obligations.WaitsForACommand : Prop :=
  ∀ s : State, s.resetPin = false → s.busy = false → s.presented = [] → step s = .next { s with response := none }

/-- No step stops: every state steps to a next state. -/
def Obligations.NoStepStops : Prop := ∀ s : State, ∃ t, step s = .next t

/-- Every command answers a next state. All but CALIBRATE end with `BUSY = 0` and a response whose bit 2 is 0 and whose
`ILLEGAL` bit says whether the operands were out of range (no legal word has such operands; the answer to them is the
model's choice, log 13). CALIBRATE ends with response 0 or stays in flight: a step runs one pass of its loop (the model's
choice, log 4). -/
def Obligations.EveryCommandAnswers : Prop :=
  ∀ (i : Instr) (s : State), ∃ t, exec i s = .next t ∧
    (i ≠ .calibrate → t.busy = false ∧ t.calibrating = false ∧
      ∃ r, t.response = some r ∧ r.getLsbD 2 = false ∧ r.getLsbD 3 = !i.wellFormed) ∧
    (i = .calibrate →
      (t.busy = false ∧ t.calibrating = false ∧ t.response = some 0b0000#4) ∨
      (t.busy = true ∧ t.calibrating = true ∧ t.response = s.response))

/-! ### Reset -/

/-- The reset event from every state: the seven items of 10_state.md R20 at their reset values, nothing in flight, no
response, no events (70_reset_and_hazards.md R161, the spec's decision D15; what it leaves of the outside world's
inputs and of the other bank bits is log 8 and log 9; the empty record of the status port is log 3). -/
def Obligations.ResetLeavesValues : Prop :=
  ∀ s : State, s.resetPin = true → step s = .next { s with
    phaseIdx := 0#3, lastMinutes := 0#11, lastPosition := 0#32, hstate := .idle, status := 0#2, busy := false,
    out := releasedBank s.cfg.val s.out, calibrating := false, response := none, trace := [], statusSeen := [] }

/-- A reset in the middle of a command (70_reset_and_hazards.md R161, the spec's decision D15; log 8): a pulse that comes
after `k` events cuts a command of more than `k` events short. The state is that of the reset event, with no response; the
first `k` events have happened, their samples have used up their answers, and what the status port showed until then stays
on record (log 3). A pulse that comes later waits for the rest. Of a CALIBRATE in flight, ResetAbandonsCalibrateInFlight
says the same. -/
def Obligations.ResetAbandonsTheCommand : Prop :=
  ∀ (s u : State) (w : Command) (rest : List Command) (i : Instr) (k : Nat),
    s.resetPin = false → s.resetAfter = some k → s.busy = false → s.presented = w :: rest → decode w = .instr i →
    exec i { s with
      busy := true, presented := rest, response := none, trace := [], statusSeen := [⟨0, s.hstate, s.status⟩] } = .next u →
    (k < u.trace.length → step s = .next { s with
      phaseIdx := 0#3, lastMinutes := 0#11, lastPosition := 0#32, hstate := .idle, status := 0#2, busy := false,
      out := releasedBank s.cfg.val s.out, calibrating := false, response := none, resetAfter := none, presented := rest,
      homeIn := s.homeIn.drop ((u.trace.take k).filter isHomeSample).length
      buttonIn := s.buttonIn.drop ((u.trace.take k).filter isButtonSample).length
      draws := s.draws + (((u.trace.take k).filter isHomeSample).length - s.homeIn.length) +
        (((u.trace.take k).filter isButtonSample).length - s.buttonIn.length)
      trace := u.trace.take k
      statusSeen := u.statusSeen.filter fun e => e.made ≤ k }) ∧
    (u.trace.length ≤ k → step s = .next { u with resetAfter := some (k - u.trace.length) })

/-- The invariant of 10_state.md R32 holds right after reset, in every configuration, with `BUSY = 0` and no command in
flight (`CoreInv` itself asks only that `BUSY` is 1 exactly when a CALIBRATE is in flight, log 4). -/
def Obligations.InvariantAtReset : Prop :=
  ∀ c : Configuration,
    CoreInv (State.resetWith c) ∧ (State.resetWith c).busy = false ∧ (State.resetWith c).calibrating = false

/-! ### STEP -/

/-- R75 to R77, R79 to R81 and R74: each STEP command makes its move, with its delay policy, and responds 0; nothing else
changes. A count of 0 only clears the outputs. A delay of 0 is no event: where R77 counts three events for each iteration
this follows R16 (the model's inference, log 12). -/
def Obligations.StepCommandsResult : Prop :=
  ∀ (n : Operand) (s : State),
    let moved (units : Nat → Nat → Nat) : State := { s with
      phaseIdx := phaseIdxAfter s.cfg.val s.phaseIdx n.toInt
      out := releasedBank s.cfg.val s.out
      trace := s.trace ++ moveEvents s.cfg.val units s.phaseIdx.toNat n.toInt
      response := some 0b0000#4
      busy := false
      calibrating := false }
    exec (.stepSlow n) s = .next (moved fun _ _ => 5) ∧
    exec (.stepAuto n) s = .next (moved autoUnits) ∧
    exec (.stepFast n) s = .next (moved fun _ _ => 1)

/-- R84 and the source's property S8.2: a move and its reverse return the phase index, at every speed. -/
def Obligations.StepIsReversible : Prop :=
  ∀ (n : Operand) (s t u : State), s.phaseIdx.toNat < phaseCount s.cfg.val →
    (exec (.stepFast n) s = .next t → exec (.stepFast (-n)) t = .next u → u.phaseIdx = s.phaseIdx) ∧
    (exec (.stepSlow n) s = .next t → exec (.stepSlow (-n)) t = .next u → u.phaseIdx = s.phaseIdx) ∧
    (exec (.stepAuto n) s = .next t → exec (.stepAuto (-n)) t = .next u → u.phaseIdx = s.phaseIdx)

/-- How long the moves last (R79, R80, R83, 70_reset_and_hazards.md R174): 5 rapid delays a step for Slow, 1 for Fast, and
`n + 67` in all for an Auto move of at least 20 steps. -/
def Obligations.MoveDurations : Prop :=
  ∀ (n : Operand) (s t : State),
    (exec (.stepSlow n) s = .next t →
      totalDelay t.trace = totalDelay s.trace + 5 * n.toInt.natAbs * rapidDelayUs s.cfg.val) ∧
    (exec (.stepFast n) s = .next t →
      totalDelay t.trace = totalDelay s.trace + n.toInt.natAbs * rapidDelayUs s.cfg.val) ∧
    (exec (.stepAuto n) s = .next t → 20 ≤ n.toInt.natAbs →
      totalDelay t.trace = totalDelay s.trace + (n.toInt.natAbs + 67) * rapidDelayUs s.cfg.val)

/-- R70: in the full-step table each entry activates one pin and the next rotates it by one; in the half-step table
consecutive entries differ in one pin, and an odd entry is the union of its neighbours. Both also from the last entry to
the first, and in either lookup order. -/
def Obligations.PhaseTableStructure : Prop :=
  ∀ p : Params,
    (p.halfStep = false → ∀ i < 4,
      phasePattern p i ∈ [1#4, 2#4, 4#4, 8#4] ∧
      phasePattern p ((i + 1) % 4) =
        if p.reversed then (phasePattern p i).rotateRight 1 else (phasePattern p i).rotateLeft 1) ∧
    (p.halfStep = true → ∀ i < 8,
      phasePattern p i ^^^ phasePattern p ((i + 1) % 8) ∈ [1#4, 2#4, 4#4, 8#4] ∧
      if (i % 2 = 1) = (p.reversed = false)
      then phasePattern p i = phasePattern p ((i + 7) % 8) ||| phasePattern p ((i + 1) % 8)
      else phasePattern p i ∈ [1#4, 2#4, 4#4, 8#4])

/-- 20_memory.md R41: bit `b` of a pattern's mask is 1 exactly when `b` is the bank bit of an active logical pin. -/
def Obligations.PinMaskBits : Prop :=
  ∀ (p : Params) (pat : Pattern) (b : Nat),
    (pinMask p pat).getLsbD b = true ↔
      (pat.getLsbD 0 = true ∧ b = p.pin0.val) ∨ (pat.getLsbD 1 = true ∧ b = p.pin1.val) ∨
      (pat.getLsbD 2 = true ∧ b = p.pin2.val) ∨ (pat.getLsbD 3 = true ∧ b = p.pin3.val)

/-- 00_scope.md R16 (the spec's decision D13): two delays in a row are one delay of their sum, and a delay of 0 is none. -/
def Obligations.DelaysMerge : Prop :=
  ∀ (a b : Nat) (s : State), delay b (delay a s) = delay (a + b) s ∧ delay 0 s = s

/-! ### The output bank, the samples and the trace -/

/-- 20_memory.md R42, R43: what `GpioSet` and `GpioClear` do, and that what a command does to the bank is exactly its `Set`
and `Clr` events, in order; every `Set` has the mask of a phase pattern, never 0 and never outside `ALLMASK`, and every
`Clr` has `ALLMASK`. -/
def Obligations.TraceDrivesTheBank : Prop :=
  (∀ (m : Bank) (s : State), gpioSet m s = { s with out := s.out ||| m, trace := s.trace ++ [.set m] }) ∧
  (∀ (m : Bank) (s : State), gpioClear m s = { s with out := s.out &&& ~~~m, trace := s.trace ++ [.clr m] }) ∧
  ∀ (i : Instr) (s t : State), exec i s = .next t →
    ∃ ev, t.trace = s.trace ++ ev ∧ t.out = bankAfter ev s.out ∧
      (∀ m, Event.set m ∈ ev →
        m ≠ 0#32 ∧ m &&& ~~~(allMask s.cfg.val) = 0#32 ∧
        ∃ k < phaseCount s.cfg.val, m = pinMask s.cfg.val (phasePattern s.cfg.val k)) ∧
      (∀ m, Event.clr m ∈ ev → m = allMask s.cfg.val)

/-- 20_memory.md R44: no step changes a bank bit outside `ALLMASK`. -/
def Obligations.OtherBankBitsKept : Prop :=
  ∀ s t : State, step s = .next t → t.out &&& ~~~(allMask s.cfg.val) = s.out &&& ~~~(allMask s.cfg.val)

/-- 41_home_sensor_port.md R93: no sample is taken while a phase output is asserted, in any command. -/
def Obligations.SamplesOnlyWhenReleased : Prop :=
  ∀ (i : Instr) (s t : State), OutputsReleased s → exec i s = .next t →
    ∀ (before after : List Event) (e : Event),
      t.trace = s.trace ++ before ++ e :: after → isSample e = true →
      bankAfter before s.out &&& allMask s.cfg.val = 0#32

/-- 42_time_update.md R108, and the same for STEP (40_stepper_driver.md R86): STEP and UPDATE take no sample, and what they do
is the same whatever the inputs are and whatever the host presents meanwhile. -/
def Obligations.StepAndUpdateIgnoreInputs : Prop :=
  ∀ (i : Instr) (s : State) (home button : List Bool) (draws : Nat) (words : List Command),
    ((∃ n, i = .stepSlow n) ∨ (∃ n, i = .stepAuto n) ∨ (∃ n, i = .stepFast n) ∨ ∃ hour minute, i = .update hour minute) →
    ∃ t ev, exec i s = .next t ∧ t.trace = s.trace ++ ev ∧ (∀ e ∈ ev, isSample e = false) ∧
      t.homeIn = s.homeIn ∧ t.buttonIn = s.buttonIn ∧ t.draws = s.draws ∧
      exec i { s with homeIn := home, buttonIn := button, draws := draws, presented := words } =
        .next { t with homeIn := home, buttonIn := button, draws := draws, presented := words }

/-- R90: IS_HOME takes one sample, records the raw bit and answers `raw xor HOME_NO`; with no answer placed, the raw bit is
a free value of the environment (log 5). That the query is a command is the spec's decision D31. -/
def Obligations.IsHomeResult : Prop :=
  ∀ s : State,
    (∀ raw rest, s.homeIn = raw :: rest → exec .isHome s = .next { s with
      homeIn := rest, trace := s.trace ++ [.homeSample raw], busy := false, calibrating := false,
      response := some (if raw = s.cfg.val.homeNo then 0b0000#4 else 0b0001#4) }) ∧
    (s.homeIn = [] → ∃ raw, exec .isHome s = .next { s with
      draws := s.draws + 1, trace := s.trace ++ [.homeSample raw], busy := false, calibrating := false,
      response := some (if raw = s.cfg.val.homeNo then 0b0000#4 else 0b0001#4) })

/-- R91: IS_BUTTON takes one sample of the button and answers it; with no answer placed, it is a free value of the
environment (log 5). That the query is a command is the spec's decision D31. -/
def Obligations.IsButtonResult : Prop :=
  ∀ s : State,
    (∀ b rest, s.buttonIn = b :: rest → exec .isButton s = .next { s with
      buttonIn := rest, trace := s.trace ++ [.buttonSample b], busy := false, calibrating := false,
      response := some (if b then 0b0001#4 else 0b0000#4) }) ∧
    (s.buttonIn = [] → ∃ b, exec .isButton s = .next { s with
      draws := s.draws + 1, trace := s.trace ++ [.buttonSample b], busy := false, calibrating := false,
      response := some (if b then 0b0001#4 else 0b0000#4) })

/-! ### UPDATE -/

/-- R96, R97, R103: the whole command and its word. When the minute of the cycle is unchanged it only responds; else it
moves by the shortest path to the target of the new minute at Auto speed and writes both position registers. A delay of 0
is no event (the model's inference, log 12). -/
def Obligations.UpdateResult : Prop :=
  ∀ (hour : BitVec 5) (minute : BitVec 6) (s : State), hour.toNat ≤ 23 → minute.toNat ≤ 59 →
    let p := s.cfg.val
    let S : Int := stepsPerCycle p
    let moc := hour.toNat % p.cycleHours * 60 + minute.toNat
    let raw : Int := (moc * stepsPerCycle p / minutesPerCycle p : Nat) - (s.lastPosition.toNat : Int)
    let delta : Int := if raw > S / 2 then raw - S else if raw < -(S / 2) then raw + S else raw
    (encode (.update hour minute)).toNat = 0x4000000000 + (hour.toNat * 64 + minute.toNat) ∧
    moc < minutesPerCycle p ∧
    exec (.update hour minute) s = .next (
      if moc = s.lastMinutes.toNat then { s with response := some 0b0000#4, busy := false, calibrating := false }
      else { s with
        phaseIdx := phaseIdxAfter p s.phaseIdx delta
        out := releasedBank p s.out
        trace := s.trace ++ moveEvents p autoUnits s.phaseIdx.toNat delta
        lastPosition := BitVec.ofNat 32 ((s.lastPosition.toNat + delta) % S).toNat
        lastMinutes := BitVec.ofNat 11 moc
        response := some 0b0000#4
        busy := false
        calibrating := false })

/-- R98: an UPDATE to the minute in the register changes no state, makes no event and responds 0; and "calling update()
twice with identical time input produces no second motion and no state change on the second call". -/
def Obligations.UpdateIsIdempotent : Prop :=
  ∀ (hour : BitVec 5) (minute : BitVec 6) (s t : State), hour.toNat ≤ 23 → minute.toNat ≤ 59 →
    (hour.toNat % s.cfg.val.cycleHours * 60 + minute.toNat = s.lastMinutes.toNat →
      exec (.update hour minute) s = .next { s with response := some 0b0000#4, busy := false, calibrating := false }) ∧
    (exec (.update hour minute) s = .next t → exec (.update hour minute) t = .next t)

/-- R104: an UPDATE that finds the position in range leaves it exactly at the target of its minute, or unchanged when the
minute is. -/
def Obligations.UpdateReachesTarget : Prop :=
  ∀ (hour : BitVec 5) (minute : BitVec 6) (s t : State), hour.toNat ≤ 23 → minute.toNat ≤ 59 →
    s.lastPosition.toNat < stepsPerCycle s.cfg.val → exec (.update hour minute) s = .next t →
    t.lastMinutes.toNat = hour.toNat % s.cfg.val.cycleHours * 60 + minute.toNat ∧
    (t.lastMinutes ≠ s.lastMinutes →
      t.lastPosition.toNat = t.lastMinutes.toNat * stepsPerCycle s.cfg.val / minutesPerCycle s.cfg.val) ∧
    (t.lastMinutes = s.lastMinutes → t.lastPosition = s.lastPosition)

/-- R101 and the source's property S8.3: the shortest-path equivalent is congruent modulo `S`, at most half a cycle long,
the same when the raw delta is no longer than that (a tie keeps its sign), and strictly shorter otherwise. -/
def Obligations.ShortestPathIsShortest : Prop :=
  ∀ (S : Nat) (raw : Int), 0 < S → raw.natAbs ≤ S - 1 →
    (shortestPath S raw).natAbs ≤ S / 2 ∧
    (S : Int) ∣ shortestPath S raw - raw ∧
    (raw.natAbs ≤ S / 2 → shortestPath S raw = raw) ∧
    (S / 2 < raw.natAbs → (shortestPath S raw).natAbs < raw.natAbs)

/-- R105: one UPDATE that finds the position in range moves at most `S div 2` steps. -/
def Obligations.UpdateMovesAtMostHalfACycle : Prop :=
  ∀ (hour : BitVec 5) (minute : BitVec 6) (s t : State), hour.toNat ≤ 23 → minute.toNat ≤ 59 →
    s.lastPosition.toNat < stepsPerCycle s.cfg.val → exec (.update hour minute) s = .next t →
    pulseCount t.trace ≤ pulseCount s.trace + stepsPerCycle s.cfg.val / 2

/-! ### HOME -/

/-- R118, with the loops of R112, R114 and R116 (their entry samples and last budgeted samples are the spec's decision D16):
a HOME that finds the sensor after `p1 + 1` forward steps, leaves it after `p2` backward steps and finds it again after
`p3` slow steps, each within its budget, zeroes the position state and `STATUS`, ends in `Homed` and responds 0;
`PHASE_IDX` stays where the last step left it. A delay of 0 is no event (log 12). The record of the status port (log 3) has
each phase from the event at which it began. -/
def Obligations.HomeSucceeds : Prop :=
  ∀ (s : State) (p1 p2 p3 : Nat) (rest : List Bool),
    let p := s.cfg.val
    let i := s.phaseIdx.toNat
    let t1 := s.trace ++ seekEvents p i (answersOf false p1)
    let t2 := t1 ++ backOffEvents p (phaseAfter p i ((p1 : Int) + 1)) (answersOf true p2)
    let t3 := t2 ++ reapproachEvents p (phaseAfter p i ((p1 : Int) + 1 - p2)) (answersOf false p3)
    p1 + 1 ≤ stepsPerCycle p + stepsPerHour p → p2 ≤ stepsPerHour p → p3 ≤ stepsPerHour p →
    s.homeIn = (answersOf false p1 ++ answersOf true p2 ++ answersOf false p3).map (rawLevel p) ++ rest →
    exec .home s = .next { s with
      phaseIdx := BitVec.ofNat 3 (phaseAfter p i ((p1 : Int) + 1 - p2 + p3))
      lastMinutes := 0#11
      lastPosition := 0#32
      hstate := .homed
      status := 0#2
      busy := false
      calibrating := false
      out := releasedBank p s.out
      response := some 0b0000#4
      homeIn := rest
      trace := t3
      statusSeen := s.statusSeen ++ [⟨s.trace.length, .seekingHomeForward, s.status⟩, ⟨t1.length, .backingOff, s.status⟩,
        ⟨t2.length, .reapproachingSlow, s.status⟩, ⟨t3.length, .homed, 0#2⟩] }

/-- R141: the three failures, each under its cause. The code is in `STATUS` and in the response, the terminal state in
`HSTATE`; the position state is not written. A delay of 0 is no event (log 12). The record of the status port (log 3) has
each phase from the event at which it began. -/
def Obligations.HomeFailures : Prop :=
  ∀ (s : State) (p1 p2 : Nat) (rest : List Bool),
    let p := s.cfg.val
    let i := s.phaseIdx.toNat
    let H := stepsPerHour p
    let S := stepsPerCycle p
    let lost1 := s.trace ++ seekEvents p i (List.replicate (S + H) false)
    let t1 := s.trace ++ seekEvents p i (answersOf false p1)
    let lost2 := t1 ++ backOffEvents p (phaseAfter p i ((p1 : Int) + 1)) (List.replicate (H + 1) true)
    let t2 := t1 ++ backOffEvents p (phaseAfter p i ((p1 : Int) + 1)) (answersOf true p2)
    let lost3 := t2 ++ reapproachEvents p (phaseAfter p i ((p1 : Int) + 1 - p2)) (List.replicate (H + 1) false)
    (s.homeIn = (List.replicate (S + H) false).map (rawLevel p) ++ rest →
      exec .home s = .next { s with
        phaseIdx := BitVec.ofNat 3 (phaseAfter p i (S + H))
        hstate := .homePhase1Error
        status := 1#2
        busy := false
        calibrating := false
        out := releasedBank p s.out
        response := some 0b0001#4
        homeIn := rest
        trace := lost1
        statusSeen := s.statusSeen ++
          [⟨s.trace.length, .seekingHomeForward, s.status⟩, ⟨lost1.length, .homePhase1Error, 1#2⟩] }) ∧
    (p1 + 1 ≤ S + H →
      s.homeIn = (answersOf false p1 ++ List.replicate (H + 1) true).map (rawLevel p) ++ rest →
      exec .home s = .next { s with
        phaseIdx := BitVec.ofNat 3 (phaseAfter p i ((p1 : Int) + 1 - H))
        hstate := .homePhase2Error
        status := 2#2
        busy := false
        calibrating := false
        out := releasedBank p s.out
        response := some 0b0010#4
        homeIn := rest
        trace := lost2
        statusSeen := s.statusSeen ++ [⟨s.trace.length, .seekingHomeForward, s.status⟩, ⟨t1.length, .backingOff, s.status⟩,
          ⟨lost2.length, .homePhase2Error, 2#2⟩] }) ∧
    (p1 + 1 ≤ S + H → p2 ≤ H →
      s.homeIn = (answersOf false p1 ++ answersOf true p2 ++ List.replicate (H + 1) false).map (rawLevel p) ++ rest →
      exec .home s = .next { s with
        phaseIdx := BitVec.ofNat 3 (phaseAfter p i ((p1 : Int) + 1 - p2 + H))
        hstate := .homePhase3Error
        status := 3#2
        busy := false
        calibrating := false
        out := releasedBank p s.out
        response := some 0b0011#4
        homeIn := rest
        trace := lost3
        statusSeen := s.statusSeen ++ [⟨s.trace.length, .seekingHomeForward, s.status⟩, ⟨t1.length, .backingOff, s.status⟩,
          ⟨t2.length, .reapproachingSlow, s.status⟩, ⟨lost3.length, .homePhase3Error, 3#2⟩] })

/-- R119, R120, R124 and R140: HOME ends from every state, whatever the environment answers. It ends `Homed` with the
position state zeroed, or in one of three failures with the position state untouched; `STATUS` and the response carry the
code; the button is not sampled. -/
def Obligations.HomeAlwaysEnds : Prop :=
  ∀ s : State, ∃ t, exec .home s = .next t ∧ t.busy = false ∧ t.calibrating = false ∧
    t.response = some (0b00#2 ++ t.status) ∧ t.status = statusOfState t.hstate ∧
    t.buttonIn = s.buttonIn ∧ t.out = releasedBank s.cfg.val s.out ∧
    t.phaseIdx.toNat < phaseCount s.cfg.val ∧
    ((t.hstate = .homed ∧ t.lastPosition = 0#32 ∧ t.lastMinutes = 0#11) ∨
      ((t.hstate = .homePhase1Error ∨ t.hstate = .homePhase2Error ∨ t.hstate = .homePhase3Error) ∧
        t.lastPosition = s.lastPosition ∧ t.lastMinutes = s.lastMinutes))

/-- R120: the bounds of one HOME: at least 1 and at most `S + 3 H` steps, at most `(S + H) + 2 (H + 1)` samples, none of
the button, and at most `S + 7 H` rapid delays. -/
def Obligations.HomeBounds : Prop :=
  ∀ s t : State, exec .home s = .next t →
    ∃ ev, t.trace = s.trace ++ ev ∧ 1 ≤ pulseCount ev ∧
      pulseCount ev ≤ stepsPerCycle s.cfg.val + 3 * stepsPerHour s.cfg.val ∧
      sampleCount ev ≤ stepsPerCycle s.cfg.val + 3 * stepsPerHour s.cfg.val + 2 ∧
      (∀ e ∈ ev, isButtonSample e = false) ∧
      totalDelay ev ≤ (stepsPerCycle s.cfg.val + 7 * stepsPerHour s.cfg.val) * rapidDelayUs s.cfg.val

/-- R111: the states a HOME goes through, whatever `HSTATE` held before: one of four paths, never back to an earlier phase
(read off the record of the status port, log 3). -/
def Obligations.HomePaths : Prop :=
  ∀ s t : State, exec .home s = .next t →
    ∃ path, t.statusSeen.map StatusShown.hstate = s.statusSeen.map StatusShown.hstate ++ path ∧
      path.getLast? = some t.hstate ∧
      (path = [.seekingHomeForward, .homePhase1Error] ∨
        path = [.seekingHomeForward, .backingOff, .homePhase2Error] ∨
        path = [.seekingHomeForward, .backingOff, .reapproachingSlow, .homePhase3Error] ∨
        path = [.seekingHomeForward, .backingOff, .reapproachingSlow, .homed])

/-! ### CALIBRATE -/

/-- R130: one pass of the loop, after the HOME that leaves `u`. A press seen by the check number `k` (0 after HOME, 1 after
the long dwell, 2 after the `H` fast steps back, 3 after the short dwell) ends the command with response 0; four checks
that read 0 leave it in flight (log 4). The status of HOME is ignored unless the policy is Abort. A delay of 0 is no event
(log 12). -/
def Obligations.CalibratePassResult : Prop :=
  ∀ s u : State, exec .home s = .next u →
    let p := s.cfg.val
    let back : BitVec 3 := phaseIdxAfter p u.phaseIdx (-(stepsPerHour p : Int))
    (p.calFailPolicy = .abort → u.status ≠ 0#2 → exec .calibrate s = .next { u with response := some 0b0000#4 }) ∧
    (p.calFailPolicy = .ignore ∨ u.status = 0#2 →
      (∀ k rest, k ≤ 3 → s.buttonIn = answersOf false k ++ rest →
        exec .calibrate s = .next { u with
          phaseIdx := if k ≤ 1 then u.phaseIdx else back
          buttonIn := rest
          trace := u.trace ++ checkEvents p u.phaseIdx.toNat 0 (answersOf false k)
          response := some 0b0000#4 }) ∧
      (∀ rest, s.buttonIn = List.replicate 4 false ++ rest →
        exec .calibrate s = .next { u with
          phaseIdx := back
          buttonIn := rest
          trace := u.trace ++ checkEvents p u.phaseIdx.toNat 0 (List.replicate 4 false)
          response := s.response
          busy := true
          calibrating := true }))

/-- The next step of a CALIBRATE in flight is the next pass (log 4). -/
def Obligations.CalibrateResumes : Prop :=
  ∀ s : State, s.resetPin = false → s.resetAfter = none → s.busy = true → s.calibrating = true →
    step s = exec .calibrate { s with response := none }

/-- R135: with the policy Ignore, as long as every button sample reads 0 the command runs on, `BUSY` stays 1 and no word is
accepted, for any number `k + 1` of passes: from the acceptance of its word, or from any state in which it is in flight. One
step is one pass (the model's choice, log 4). -/
def Obligations.CalibrateRunsWhileNotPressed : Prop :=
  ∀ (k : Nat) (s : State) (words : List Command) (rest : List Bool),
    s.cfg.val.calFailPolicy = .ignore → s.resetPin = false → s.resetAfter = none →
    (s.busy = true ∧ s.calibrating = true ∧ s.presented = words) ∨
      (s.busy = false ∧ s.presented = 0x8000000000#40 :: words) →
    s.buttonIn = List.replicate (4 * (k + 1)) false ++ rest →
    ∃ t : State, Host.Core.run Sys2Proof.core (k + 1) s = .next t ∧ t.busy = true ∧ t.calibrating = true ∧
      t.response = none ∧ t.buttonIn = rest ∧ t.presented = words ∧ t.cfg = s.cfg ∧ t.resetPin = false

/-- R131, R135: CALIBRATE ends by the button: when the first press is the answer to the sample number `m` (from 0), the
command has ended, with response 0, after `m div 4 + 1` passes. One step is one pass (the model's choice, log 4). -/
def Obligations.CalibrateEndsWhenPressed : Prop :=
  ∀ (m : Nat) (s : State) (words : List Command) (rest : List Bool),
    s.cfg.val.calFailPolicy = .ignore → s.resetPin = false → s.resetAfter = none →
    (s.busy = true ∧ s.calibrating = true ∧ s.presented = words) ∨
      (s.busy = false ∧ s.presented = 0x8000000000#40 :: words) →
    s.buttonIn = answersOf false m ++ rest →
    ∃ t : State, Host.Core.run Sys2Proof.core (m / 4 + 1) s = .next t ∧ t.busy = false ∧ t.calibrating = false ∧
      t.response = some 0b0000#4 ∧ t.buttonIn = rest ∧ t.presented = words

/-! ### Whole-machine rules -/

/-- 10_state.md R32: every step keeps the invariant; between two passes of a CALIBRATE in flight it has `BUSY = 1` (log 4). -/
def Obligations.InvariantKept : Prop := ∀ s t : State, CoreInv s → step s = .next t → CoreInv t

/-- 00_scope.md R7: no step changes the configuration. -/
def Obligations.ConfigurationNeverChanges : Prop := ∀ s t : State, step s = .next t → t.cfg = s.cfg

/-- 10_state.md R23, R24: `LAST_POSITION` and `LAST_MINUTES` are written by no command but UPDATE, HOME and CALIBRATE, and
HOME and CALIBRATE leave them or zero them. -/
def Obligations.PositionWriters : Prop :=
  ∀ (i : Instr) (s t : State), (∀ hour minute, i ≠ .update hour minute) → exec i s = .next t →
    (t.lastPosition = s.lastPosition ∧ t.lastMinutes = s.lastMinutes) ∨
      ((i = .home ∨ i = .calibrate) ∧ t.lastPosition = 0#32 ∧ t.lastMinutes = 0#11)

/-- 10_state.md R25, R26: `HSTATE` and `STATUS` are written only by HOME and CALIBRATE, so that the status port shows the same
all through any other command (log 3). -/
def Obligations.StatusWriters : Prop :=
  ∀ (i : Instr) (s t : State), i ≠ .home → i ≠ .calibrate → exec i s = .next t →
    t.hstate = s.hstate ∧ t.status = s.status ∧ t.statusSeen = s.statusSeen

/-- 30_encoding.md R65 with the codes of 10_state.md R25 and R64 (the spec's decisions D1 and D4): what the status port
shows. -/
def Obligations.StatusPortCodes : Prop :=
  ∀ s : State,
    statusView s = { busy := if s.busy then 1#1 else 0#1, hstate := hstateCode s.hstate, status := s.status } ∧
    hstateCode .idle = 0#3 ∧ hstateCode .seekingHomeForward = 1#3 ∧ hstateCode .backingOff = 2#3 ∧
    hstateCode .reapproachingSlow = 3#3 ∧ hstateCode .homed = 4#3 ∧ hstateCode .homePhase1Error = 5#3 ∧
    hstateCode .homePhase2Error = 6#3 ∧ hstateCode .homePhase3Error = 7#3

/-! ### Watching the status port, and a reset in the middle of a command -/

/-- 60_exceptions.md R155 with 30_encoding.md R65 (the spec's decisions D1, D4 and D24): what a host that watches the status
port sees during a HOME that no reset cuts short, `k` events after its acceptance (log 3). While an event is still to come
it is `BUSY = 1`, the code of a transient state and the old `STATUS`; the first code is that of SeekingHomeForward and no
code comes after a higher one; after the last event it is the result, which the port also shows when the command is over.
-/
def Obligations.StatusPortDuringHome : Prop :=
  ∀ (s t : State) (rest : List Command),
    s.resetPin = false → s.resetAfter = none → s.busy = false → s.presented = 0x6000000000#40 :: rest → step s = .next t →
    statusDuring t 0 = some { busy := 1#1, hstate := 1#3, status := s.status } ∧
    (∀ k < t.trace.length, ∃ code ∈ [1#3, 2#3, 3#3],
      statusDuring t k = some { busy := 1#1, hstate := code, status := s.status }) ∧
    (∀ (j k : Nat) (v w : StatusView), j ≤ k → statusDuring t j = some v → statusDuring t k = some w →
      v.hstate.toNat ≤ w.hstate.toNat) ∧
    statusDuring t t.trace.length = some { busy := 1#1, hstate := hstateCode t.hstate, status := t.status } ∧
    statusView t = { busy := 0#1, hstate := hstateCode t.hstate, status := t.status } ∧
    4 ≤ (hstateCode t.hstate).toNat

/-- 60_exceptions.md R155 and 70_reset_and_hazards.md R161 (log 3, log 8): until the reset pulse that cuts a command short, the
status port shows what it shows in the whole command, which leaves `u`; after it, the reset values. -/
def Obligations.StatusPortUntilReset : Prop :=
  ∀ (s t u : State) (w : Command) (rest : List Command) (i : Instr) (k : Nat),
    s.resetPin = false → s.resetAfter = some k → s.busy = false → s.presented = w :: rest → decode w = .instr i →
    exec i { s with
      busy := true, presented := rest, response := none, trace := [], statusSeen := [⟨0, s.hstate, s.status⟩] } = .next u →
    k < u.trace.length → step s = .next t →
    (∀ j ≤ k, statusDuring t j = statusDuring u j) ∧
    (∀ j, k < j → statusDuring t j = none) ∧
    statusView t = { busy := 0#1, hstate := 0#3, status := 0#2 }

/-- A reset in the middle of a later pass of a CALIBRATE in flight (70_reset_and_hazards.md R161, 44_calibration.md R135, the
spec's decision D15; log 4, log 8): the pass would add the events `ev`, and a pulse that comes after fewer of them abandons
the command as ResetAbandonsTheCommand says, with the events of the passes before and the first `k` of this one on record. A
pulse that comes later waits for the rest. -/
def Obligations.ResetAbandonsCalibrateInFlight : Prop :=
  ∀ (s u : State) (ev : List Event) (k : Nat),
    s.resetPin = false → s.resetAfter = some k → s.busy = true → s.calibrating = true →
    exec .calibrate { s with response := none } = .next u → u.trace = s.trace ++ ev →
    (k < ev.length → step s = .next { s with
      phaseIdx := 0#3, lastMinutes := 0#11, lastPosition := 0#32, hstate := .idle, status := 0#2, busy := false,
      out := releasedBank s.cfg.val s.out, calibrating := false, response := none, resetAfter := none,
      homeIn := s.homeIn.drop ((ev.take k).filter isHomeSample).length
      buttonIn := s.buttonIn.drop ((ev.take k).filter isButtonSample).length
      draws := s.draws + (((ev.take k).filter isHomeSample).length - s.homeIn.length) +
        (((ev.take k).filter isButtonSample).length - s.buttonIn.length)
      trace := s.trace ++ ev.take k
      statusSeen := u.statusSeen.filter fun e => e.made ≤ s.trace.length + k }) ∧
    (ev.length ≤ k → step s = .next { u with resetAfter := some (k - ev.length) })
end

