-- ==== Sys2Proof/Laws/Decode.lean ====
section
/-! SUPPORT. The bits of an encoded word and its fields (30_encoding.md R56, R60): what the decoder reads is what the encoder
wrote, and a legal word is put together again from its fields. -/

namespace Sys2Proof

/-- Every bit of a command word (R56). -/
theorem getLsbD_commandWord (o : BitVec 3) (p : BitVec 2) (a : Operand) (i : Nat) :
    (commandWord o p a).getLsbD i =
      if i < 32 then a.getLsbD i else if i < 35 then false
      else if i < 37 then p.getLsbD (i - 35) else o.getLsbD (i - 37) := by
  change @BitVec.getLsbD (3 + 2 + 3 + 32) (o ++ p ++ 0#3 ++ a) i = _
  simp only [BitVec.getLsbD_append, BitVec.getLsbD_zero]
  by_cases h1 : i < 32
  · simp only [if_pos h1]
  · by_cases h2 : i < 35
    · simp only [if_neg h1, if_pos h2, if_pos (show i - 32 < 3 by omega)]
    · by_cases h3 : i < 37
      · simp only [if_neg h1, if_neg h2, if_pos h3, if_neg (show ¬ i - 32 < 3 by omega),
          show i - 32 - 3 = i - 35 by omega, if_pos (show i - 35 < 2 by omega)]
      · simp only [if_neg h1, if_neg h2, if_neg h3, if_neg (show ¬ i - 32 < 3 by omega),
          if_neg (show ¬ i - 32 - 3 < 2 by omega), show i - 32 - 3 - 2 = i - 37 by omega]

/-- Every bit of an UPDATE operand (R60). -/
theorem getLsbD_updateOperand (h : BitVec 5) (m : BitVec 6) (i : Nat) :
    (updateOperand h m).getLsbD i =
      if i < 6 then m.getLsbD i else if i < 11 then h.getLsbD (i - 6) else false := by
  change @BitVec.getLsbD (21 + 5 + 6) (0#21 ++ h ++ m) i = _
  simp only [BitVec.getLsbD_append, BitVec.getLsbD_zero]
  by_cases h1 : i < 6
  · simp only [if_pos h1]
  · by_cases h2 : i < 11
    · simp only [if_neg h1, if_pos h2, if_pos (show i - 6 < 5 by omega)]
    · simp only [if_neg h1, if_neg h2, if_neg (show ¬ i - 6 < 5 by omega)]

/-! ### The fields of an encoded word -/

theorem opcOf_commandWord (o : BitVec 3) (p : BitVec 2) (a : Operand) : opcOf (commandWord o p a) = o := by
  apply BitVec.eq_of_getLsbD_eq
  intro i hi
  simp only [opcOf, BitVec.getLsbD_extractLsb', getLsbD_commandWord, hi, decide_true, Bool.true_and,
    if_neg (show ¬ 37 + i < 32 by omega), if_neg (show ¬ 37 + i < 35 by omega), if_neg (show ¬ 37 + i < 37 by omega),
    Nat.add_sub_cancel_left]

theorem spdOf_commandWord (o : BitVec 3) (p : BitVec 2) (a : Operand) : spdOf (commandWord o p a) = p := by
  apply BitVec.eq_of_getLsbD_eq
  intro i hi
  simp only [spdOf, BitVec.getLsbD_extractLsb', getLsbD_commandWord, hi, decide_true, Bool.true_and,
    if_neg (show ¬ 35 + i < 32 by omega), if_neg (show ¬ 35 + i < 35 by omega), if_pos (show 35 + i < 37 by omega),
    Nat.add_sub_cancel_left]

theorem zeroOf_commandWord (o : BitVec 3) (p : BitVec 2) (a : Operand) : zeroOf (commandWord o p a) = 0#3 := by
  apply BitVec.eq_of_getLsbD_eq
  intro i hi
  simp only [zeroOf, BitVec.getLsbD_extractLsb', getLsbD_commandWord, hi, decide_true, Bool.true_and,
    if_neg (show ¬ 32 + i < 32 by omega), if_pos (show 32 + i < 35 by omega), BitVec.getLsbD_zero]

theorem argOf_commandWord (o : BitVec 3) (p : BitVec 2) (a : Operand) : argOf (commandWord o p a) = a := by
  apply BitVec.eq_of_getLsbD_eq
  intro i hi
  simp only [argOf, BitVec.getLsbD_extractLsb', getLsbD_commandWord, hi, decide_true, Bool.true_and, Nat.zero_add, if_true]

theorem updateHighOf_updateOperand (h : BitVec 5) (m : BitVec 6) : updateHighOf (updateOperand h m) = 0#21 := by
  apply BitVec.eq_of_getLsbD_eq
  intro i hi
  simp only [updateHighOf, BitVec.getLsbD_extractLsb', getLsbD_updateOperand, hi, decide_true, Bool.true_and,
    if_neg (show ¬ 11 + i < 6 by omega), if_neg (show ¬ 11 + i < 11 by omega), BitVec.getLsbD_zero]

theorem hourOf_updateOperand (h : BitVec 5) (m : BitVec 6) : hourOf (updateOperand h m) = h := by
  apply BitVec.eq_of_getLsbD_eq
  intro i hi
  simp only [hourOf, BitVec.getLsbD_extractLsb', getLsbD_updateOperand, hi, decide_true, Bool.true_and,
    if_neg (show ¬ 6 + i < 6 by omega), if_pos (show 6 + i < 11 by omega), Nat.add_sub_cancel_left]

theorem minuteOf_updateOperand (h : BitVec 5) (m : BitVec 6) : minuteOf (updateOperand h m) = m := by
  apply BitVec.eq_of_getLsbD_eq
  intro i hi
  simp only [minuteOf, BitVec.getLsbD_extractLsb', getLsbD_updateOperand, hi, decide_true, Bool.true_and, Nat.zero_add, if_true]

/-! ### A word from its fields -/

theorem commandWord_of_fields (w : Command) (h : zeroOf w = 0#3) : commandWord (opcOf w) (spdOf w) (argOf w) = w := by
  apply BitVec.eq_of_getLsbD_eq
  intro i hi
  have e := congrArg (fun x => x.getLsbD (i - 32)) h
  simp only [zeroOf, BitVec.getLsbD_extractLsb', BitVec.getLsbD_zero] at e
  rw [getLsbD_commandWord]
  simp only [opcOf, spdOf, argOf, BitVec.getLsbD_extractLsb']
  split
  · rename_i h1; simp [h1]
  · split
    · rw [show 32 + (i - 32) = i by omega] at e
      simpa [show i - 32 < 3 by omega] using e.symm
    · split
      · simp [show i - 35 < 2 by omega, show 35 + (i - 35) = i by omega]
      · simp [show i - 37 < 3 by omega, show 37 + (i - 37) = i by omega]

theorem updateOperand_of_fields (a : Operand) (h : updateHighOf a = 0#21) : updateOperand (hourOf a) (minuteOf a) = a := by
  apply BitVec.eq_of_getLsbD_eq
  intro i hi
  have e := congrArg (fun x => x.getLsbD (i - 11)) h
  simp only [updateHighOf, BitVec.getLsbD_extractLsb', BitVec.getLsbD_zero] at e
  rw [getLsbD_updateOperand]
  simp only [hourOf, minuteOf, BitVec.getLsbD_extractLsb']
  split
  · rename_i h1; simp [h1]
  · split
    · simp [show i - 6 < 5 by omega, show 6 + (i - 6) = i by omega]
    · rw [show 11 + (i - 11) = i by omega] at e
      simpa [show i - 11 < 21 by omega] using e.symm

end Sys2Proof
end

