-- ==== Sys2Proof/Laws/State.lean ====
section
/-! SUPPORT. One lemma per field of State and per update of it, true by unfolding, for simp (the updates are those of
Machine/Ops.lean, Port.lean, and the two ends of HOME and CALIBRATE). -/

namespace Sys2Proof.Machine

/-! ### writePhaseIdx -/

@[simp] theorem writePhaseIdx_cfg (i : Nat) (s : State) : (writePhaseIdx i s).cfg = s.cfg := rfl
@[simp] theorem writePhaseIdx_phaseIdx (i : Nat) (s : State) : (writePhaseIdx i s).phaseIdx = BitVec.ofNat 3 i := rfl
@[simp] theorem writePhaseIdx_lastMinutes (i : Nat) (s : State) : (writePhaseIdx i s).lastMinutes = s.lastMinutes := rfl
@[simp] theorem writePhaseIdx_lastPosition (i : Nat) (s : State) : (writePhaseIdx i s).lastPosition = s.lastPosition := rfl
@[simp] theorem writePhaseIdx_hstate (i : Nat) (s : State) : (writePhaseIdx i s).hstate = s.hstate := rfl
@[simp] theorem writePhaseIdx_status (i : Nat) (s : State) : (writePhaseIdx i s).status = s.status := rfl
@[simp] theorem writePhaseIdx_busy (i : Nat) (s : State) : (writePhaseIdx i s).busy = s.busy := rfl
@[simp] theorem writePhaseIdx_out (i : Nat) (s : State) : (writePhaseIdx i s).out = s.out := rfl
@[simp] theorem writePhaseIdx_calibrating (i : Nat) (s : State) : (writePhaseIdx i s).calibrating = s.calibrating := rfl
@[simp] theorem writePhaseIdx_response (i : Nat) (s : State) : (writePhaseIdx i s).response = s.response := rfl
@[simp] theorem writePhaseIdx_resetPin (i : Nat) (s : State) : (writePhaseIdx i s).resetPin = s.resetPin := rfl
@[simp] theorem writePhaseIdx_resetAfter (i : Nat) (s : State) : (writePhaseIdx i s).resetAfter = s.resetAfter := rfl
@[simp] theorem writePhaseIdx_presented (i : Nat) (s : State) : (writePhaseIdx i s).presented = s.presented := rfl
@[simp] theorem writePhaseIdx_homeIn (i : Nat) (s : State) : (writePhaseIdx i s).homeIn = s.homeIn := rfl
@[simp] theorem writePhaseIdx_buttonIn (i : Nat) (s : State) : (writePhaseIdx i s).buttonIn = s.buttonIn := rfl
@[simp] theorem writePhaseIdx_draws (i : Nat) (s : State) : (writePhaseIdx i s).draws = s.draws := rfl
@[simp] theorem writePhaseIdx_trace (i : Nat) (s : State) : (writePhaseIdx i s).trace = s.trace := rfl
@[simp] theorem writePhaseIdx_statusSeen (i : Nat) (s : State) : (writePhaseIdx i s).statusSeen = s.statusSeen := rfl

/-! ### writePosition -/

@[simp] theorem writePosition_cfg (pos moc : Nat) (s : State) : (writePosition pos moc s).cfg = s.cfg := rfl
@[simp] theorem writePosition_phaseIdx (pos moc : Nat) (s : State) : (writePosition pos moc s).phaseIdx = s.phaseIdx := rfl
@[simp] theorem writePosition_lastMinutes (pos moc : Nat) (s : State) : (writePosition pos moc s).lastMinutes = BitVec.ofNat 11 moc := rfl
@[simp] theorem writePosition_lastPosition (pos moc : Nat) (s : State) : (writePosition pos moc s).lastPosition = BitVec.ofNat 32 pos := rfl
@[simp] theorem writePosition_hstate (pos moc : Nat) (s : State) : (writePosition pos moc s).hstate = s.hstate := rfl
@[simp] theorem writePosition_status (pos moc : Nat) (s : State) : (writePosition pos moc s).status = s.status := rfl
@[simp] theorem writePosition_busy (pos moc : Nat) (s : State) : (writePosition pos moc s).busy = s.busy := rfl
@[simp] theorem writePosition_out (pos moc : Nat) (s : State) : (writePosition pos moc s).out = s.out := rfl
@[simp] theorem writePosition_calibrating (pos moc : Nat) (s : State) : (writePosition pos moc s).calibrating = s.calibrating := rfl
@[simp] theorem writePosition_response (pos moc : Nat) (s : State) : (writePosition pos moc s).response = s.response := rfl
@[simp] theorem writePosition_resetPin (pos moc : Nat) (s : State) : (writePosition pos moc s).resetPin = s.resetPin := rfl
@[simp] theorem writePosition_resetAfter (pos moc : Nat) (s : State) : (writePosition pos moc s).resetAfter = s.resetAfter := rfl
@[simp] theorem writePosition_presented (pos moc : Nat) (s : State) : (writePosition pos moc s).presented = s.presented := rfl
@[simp] theorem writePosition_homeIn (pos moc : Nat) (s : State) : (writePosition pos moc s).homeIn = s.homeIn := rfl
@[simp] theorem writePosition_buttonIn (pos moc : Nat) (s : State) : (writePosition pos moc s).buttonIn = s.buttonIn := rfl
@[simp] theorem writePosition_draws (pos moc : Nat) (s : State) : (writePosition pos moc s).draws = s.draws := rfl
@[simp] theorem writePosition_trace (pos moc : Nat) (s : State) : (writePosition pos moc s).trace = s.trace := rfl
@[simp] theorem writePosition_statusSeen (pos moc : Nat) (s : State) : (writePosition pos moc s).statusSeen = s.statusSeen := rfl

/-! ### showStatus -/

@[simp] theorem showStatus_cfg (h : HState) (code : BitVec 2) (s : State) : (showStatus h code s).cfg = s.cfg := rfl
@[simp] theorem showStatus_phaseIdx (h : HState) (code : BitVec 2) (s : State) : (showStatus h code s).phaseIdx = s.phaseIdx := rfl
@[simp] theorem showStatus_lastMinutes (h : HState) (code : BitVec 2) (s : State) : (showStatus h code s).lastMinutes = s.lastMinutes := rfl
@[simp] theorem showStatus_lastPosition (h : HState) (code : BitVec 2) (s : State) : (showStatus h code s).lastPosition = s.lastPosition := rfl
@[simp] theorem showStatus_hstate (h : HState) (code : BitVec 2) (s : State) : (showStatus h code s).hstate = h := rfl
@[simp] theorem showStatus_status (h : HState) (code : BitVec 2) (s : State) : (showStatus h code s).status = code := rfl
@[simp] theorem showStatus_busy (h : HState) (code : BitVec 2) (s : State) : (showStatus h code s).busy = s.busy := rfl
@[simp] theorem showStatus_out (h : HState) (code : BitVec 2) (s : State) : (showStatus h code s).out = s.out := rfl
@[simp] theorem showStatus_calibrating (h : HState) (code : BitVec 2) (s : State) : (showStatus h code s).calibrating = s.calibrating := rfl
@[simp] theorem showStatus_response (h : HState) (code : BitVec 2) (s : State) : (showStatus h code s).response = s.response := rfl
@[simp] theorem showStatus_resetPin (h : HState) (code : BitVec 2) (s : State) : (showStatus h code s).resetPin = s.resetPin := rfl
@[simp] theorem showStatus_resetAfter (h : HState) (code : BitVec 2) (s : State) : (showStatus h code s).resetAfter = s.resetAfter := rfl
@[simp] theorem showStatus_presented (h : HState) (code : BitVec 2) (s : State) : (showStatus h code s).presented = s.presented := rfl
@[simp] theorem showStatus_homeIn (h : HState) (code : BitVec 2) (s : State) : (showStatus h code s).homeIn = s.homeIn := rfl
@[simp] theorem showStatus_buttonIn (h : HState) (code : BitVec 2) (s : State) : (showStatus h code s).buttonIn = s.buttonIn := rfl
@[simp] theorem showStatus_draws (h : HState) (code : BitVec 2) (s : State) : (showStatus h code s).draws = s.draws := rfl
@[simp] theorem showStatus_trace (h : HState) (code : BitVec 2) (s : State) : (showStatus h code s).trace = s.trace := rfl
@[simp] theorem showStatus_statusSeen (h : HState) (code : BitVec 2) (s : State) : (showStatus h code s).statusSeen = s.statusSeen ++ [⟨s.trace.length, h, code⟩] := rfl

/-! ### writeHState -/

@[simp] theorem writeHState_cfg (h : HState) (s : State) : (writeHState h s).cfg = s.cfg := rfl
@[simp] theorem writeHState_phaseIdx (h : HState) (s : State) : (writeHState h s).phaseIdx = s.phaseIdx := rfl
@[simp] theorem writeHState_lastMinutes (h : HState) (s : State) : (writeHState h s).lastMinutes = s.lastMinutes := rfl
@[simp] theorem writeHState_lastPosition (h : HState) (s : State) : (writeHState h s).lastPosition = s.lastPosition := rfl
@[simp] theorem writeHState_hstate (h : HState) (s : State) : (writeHState h s).hstate = h := rfl
@[simp] theorem writeHState_status (h : HState) (s : State) : (writeHState h s).status = s.status := rfl
@[simp] theorem writeHState_busy (h : HState) (s : State) : (writeHState h s).busy = s.busy := rfl
@[simp] theorem writeHState_out (h : HState) (s : State) : (writeHState h s).out = s.out := rfl
@[simp] theorem writeHState_calibrating (h : HState) (s : State) : (writeHState h s).calibrating = s.calibrating := rfl
@[simp] theorem writeHState_response (h : HState) (s : State) : (writeHState h s).response = s.response := rfl
@[simp] theorem writeHState_resetPin (h : HState) (s : State) : (writeHState h s).resetPin = s.resetPin := rfl
@[simp] theorem writeHState_resetAfter (h : HState) (s : State) : (writeHState h s).resetAfter = s.resetAfter := rfl
@[simp] theorem writeHState_presented (h : HState) (s : State) : (writeHState h s).presented = s.presented := rfl
@[simp] theorem writeHState_homeIn (h : HState) (s : State) : (writeHState h s).homeIn = s.homeIn := rfl
@[simp] theorem writeHState_buttonIn (h : HState) (s : State) : (writeHState h s).buttonIn = s.buttonIn := rfl
@[simp] theorem writeHState_draws (h : HState) (s : State) : (writeHState h s).draws = s.draws := rfl
@[simp] theorem writeHState_trace (h : HState) (s : State) : (writeHState h s).trace = s.trace := rfl
@[simp] theorem writeHState_statusSeen (h : HState) (s : State) : (writeHState h s).statusSeen = s.statusSeen ++ [⟨s.trace.length, h, s.status⟩] := rfl

/-! ### gpioSet -/

@[simp] theorem gpioSet_cfg (m : Bank) (s : State) : (gpioSet m s).cfg = s.cfg := rfl
@[simp] theorem gpioSet_phaseIdx (m : Bank) (s : State) : (gpioSet m s).phaseIdx = s.phaseIdx := rfl
@[simp] theorem gpioSet_lastMinutes (m : Bank) (s : State) : (gpioSet m s).lastMinutes = s.lastMinutes := rfl
@[simp] theorem gpioSet_lastPosition (m : Bank) (s : State) : (gpioSet m s).lastPosition = s.lastPosition := rfl
@[simp] theorem gpioSet_hstate (m : Bank) (s : State) : (gpioSet m s).hstate = s.hstate := rfl
@[simp] theorem gpioSet_status (m : Bank) (s : State) : (gpioSet m s).status = s.status := rfl
@[simp] theorem gpioSet_busy (m : Bank) (s : State) : (gpioSet m s).busy = s.busy := rfl
@[simp] theorem gpioSet_out (m : Bank) (s : State) : (gpioSet m s).out = s.out ||| m := rfl
@[simp] theorem gpioSet_calibrating (m : Bank) (s : State) : (gpioSet m s).calibrating = s.calibrating := rfl
@[simp] theorem gpioSet_response (m : Bank) (s : State) : (gpioSet m s).response = s.response := rfl
@[simp] theorem gpioSet_resetPin (m : Bank) (s : State) : (gpioSet m s).resetPin = s.resetPin := rfl
@[simp] theorem gpioSet_resetAfter (m : Bank) (s : State) : (gpioSet m s).resetAfter = s.resetAfter := rfl
@[simp] theorem gpioSet_presented (m : Bank) (s : State) : (gpioSet m s).presented = s.presented := rfl
@[simp] theorem gpioSet_homeIn (m : Bank) (s : State) : (gpioSet m s).homeIn = s.homeIn := rfl
@[simp] theorem gpioSet_buttonIn (m : Bank) (s : State) : (gpioSet m s).buttonIn = s.buttonIn := rfl
@[simp] theorem gpioSet_draws (m : Bank) (s : State) : (gpioSet m s).draws = s.draws := rfl
@[simp] theorem gpioSet_trace (m : Bank) (s : State) : (gpioSet m s).trace = s.trace ++ [.set m] := rfl
@[simp] theorem gpioSet_statusSeen (m : Bank) (s : State) : (gpioSet m s).statusSeen = s.statusSeen := rfl

/-! ### gpioClear -/

@[simp] theorem gpioClear_cfg (m : Bank) (s : State) : (gpioClear m s).cfg = s.cfg := rfl
@[simp] theorem gpioClear_phaseIdx (m : Bank) (s : State) : (gpioClear m s).phaseIdx = s.phaseIdx := rfl
@[simp] theorem gpioClear_lastMinutes (m : Bank) (s : State) : (gpioClear m s).lastMinutes = s.lastMinutes := rfl
@[simp] theorem gpioClear_lastPosition (m : Bank) (s : State) : (gpioClear m s).lastPosition = s.lastPosition := rfl
@[simp] theorem gpioClear_hstate (m : Bank) (s : State) : (gpioClear m s).hstate = s.hstate := rfl
@[simp] theorem gpioClear_status (m : Bank) (s : State) : (gpioClear m s).status = s.status := rfl
@[simp] theorem gpioClear_busy (m : Bank) (s : State) : (gpioClear m s).busy = s.busy := rfl
@[simp] theorem gpioClear_out (m : Bank) (s : State) : (gpioClear m s).out = s.out &&& ~~~m := rfl
@[simp] theorem gpioClear_calibrating (m : Bank) (s : State) : (gpioClear m s).calibrating = s.calibrating := rfl
@[simp] theorem gpioClear_response (m : Bank) (s : State) : (gpioClear m s).response = s.response := rfl
@[simp] theorem gpioClear_resetPin (m : Bank) (s : State) : (gpioClear m s).resetPin = s.resetPin := rfl
@[simp] theorem gpioClear_resetAfter (m : Bank) (s : State) : (gpioClear m s).resetAfter = s.resetAfter := rfl
@[simp] theorem gpioClear_presented (m : Bank) (s : State) : (gpioClear m s).presented = s.presented := rfl
@[simp] theorem gpioClear_homeIn (m : Bank) (s : State) : (gpioClear m s).homeIn = s.homeIn := rfl
@[simp] theorem gpioClear_buttonIn (m : Bank) (s : State) : (gpioClear m s).buttonIn = s.buttonIn := rfl
@[simp] theorem gpioClear_draws (m : Bank) (s : State) : (gpioClear m s).draws = s.draws := rfl
@[simp] theorem gpioClear_trace (m : Bank) (s : State) : (gpioClear m s).trace = s.trace ++ [.clr m] := rfl
@[simp] theorem gpioClear_statusSeen (m : Bank) (s : State) : (gpioClear m s).statusSeen = s.statusSeen := rfl

/-! ### delay -/

@[simp] theorem delay_cfg (d : Nat) (s : State) : (delay d s).cfg = s.cfg := rfl
@[simp] theorem delay_phaseIdx (d : Nat) (s : State) : (delay d s).phaseIdx = s.phaseIdx := rfl
@[simp] theorem delay_lastMinutes (d : Nat) (s : State) : (delay d s).lastMinutes = s.lastMinutes := rfl
@[simp] theorem delay_lastPosition (d : Nat) (s : State) : (delay d s).lastPosition = s.lastPosition := rfl
@[simp] theorem delay_hstate (d : Nat) (s : State) : (delay d s).hstate = s.hstate := rfl
@[simp] theorem delay_status (d : Nat) (s : State) : (delay d s).status = s.status := rfl
@[simp] theorem delay_busy (d : Nat) (s : State) : (delay d s).busy = s.busy := rfl
@[simp] theorem delay_out (d : Nat) (s : State) : (delay d s).out = s.out := rfl
@[simp] theorem delay_calibrating (d : Nat) (s : State) : (delay d s).calibrating = s.calibrating := rfl
@[simp] theorem delay_response (d : Nat) (s : State) : (delay d s).response = s.response := rfl
@[simp] theorem delay_resetPin (d : Nat) (s : State) : (delay d s).resetPin = s.resetPin := rfl
@[simp] theorem delay_resetAfter (d : Nat) (s : State) : (delay d s).resetAfter = s.resetAfter := rfl
@[simp] theorem delay_presented (d : Nat) (s : State) : (delay d s).presented = s.presented := rfl
@[simp] theorem delay_homeIn (d : Nat) (s : State) : (delay d s).homeIn = s.homeIn := rfl
@[simp] theorem delay_buttonIn (d : Nat) (s : State) : (delay d s).buttonIn = s.buttonIn := rfl
@[simp] theorem delay_draws (d : Nat) (s : State) : (delay d s).draws = s.draws := rfl
@[simp] theorem delay_trace (d : Nat) (s : State) : (delay d s).trace = delayedTrace d s.trace := rfl
@[simp] theorem delay_statusSeen (d : Nat) (s : State) : (delay d s).statusSeen = s.statusSeen := rfl

/-! ### readHomeRaw -/

@[simp] theorem readHomeRaw_cfg (s : State) : (readHomeRaw s).cfg = s.cfg := rfl
@[simp] theorem readHomeRaw_phaseIdx (s : State) : (readHomeRaw s).phaseIdx = s.phaseIdx := rfl
@[simp] theorem readHomeRaw_lastMinutes (s : State) : (readHomeRaw s).lastMinutes = s.lastMinutes := rfl
@[simp] theorem readHomeRaw_lastPosition (s : State) : (readHomeRaw s).lastPosition = s.lastPosition := rfl
@[simp] theorem readHomeRaw_hstate (s : State) : (readHomeRaw s).hstate = s.hstate := rfl
@[simp] theorem readHomeRaw_status (s : State) : (readHomeRaw s).status = s.status := rfl
@[simp] theorem readHomeRaw_busy (s : State) : (readHomeRaw s).busy = s.busy := rfl
@[simp] theorem readHomeRaw_out (s : State) : (readHomeRaw s).out = s.out := rfl
@[simp] theorem readHomeRaw_calibrating (s : State) : (readHomeRaw s).calibrating = s.calibrating := rfl
@[simp] theorem readHomeRaw_response (s : State) : (readHomeRaw s).response = s.response := rfl
@[simp] theorem readHomeRaw_resetPin (s : State) : (readHomeRaw s).resetPin = s.resetPin := rfl
@[simp] theorem readHomeRaw_resetAfter (s : State) : (readHomeRaw s).resetAfter = s.resetAfter := rfl
@[simp] theorem readHomeRaw_presented (s : State) : (readHomeRaw s).presented = s.presented := rfl
@[simp] theorem readHomeRaw_homeIn (s : State) : (readHomeRaw s).homeIn = s.homeIn.tail := rfl
@[simp] theorem readHomeRaw_buttonIn (s : State) : (readHomeRaw s).buttonIn = s.buttonIn := rfl
@[simp] theorem readHomeRaw_draws (s : State) : (readHomeRaw s).draws = drawsAfter s.homeIn s.draws := rfl
@[simp] theorem readHomeRaw_trace (s : State) : (readHomeRaw s).trace = s.trace ++ [.homeSample (homeRaw s)] := rfl
@[simp] theorem readHomeRaw_statusSeen (s : State) : (readHomeRaw s).statusSeen = s.statusSeen := rfl

/-! ### readButton -/

@[simp] theorem readButton_cfg (s : State) : (readButton s).cfg = s.cfg := rfl
@[simp] theorem readButton_phaseIdx (s : State) : (readButton s).phaseIdx = s.phaseIdx := rfl
@[simp] theorem readButton_lastMinutes (s : State) : (readButton s).lastMinutes = s.lastMinutes := rfl
@[simp] theorem readButton_lastPosition (s : State) : (readButton s).lastPosition = s.lastPosition := rfl
@[simp] theorem readButton_hstate (s : State) : (readButton s).hstate = s.hstate := rfl
@[simp] theorem readButton_status (s : State) : (readButton s).status = s.status := rfl
@[simp] theorem readButton_busy (s : State) : (readButton s).busy = s.busy := rfl
@[simp] theorem readButton_out (s : State) : (readButton s).out = s.out := rfl
@[simp] theorem readButton_calibrating (s : State) : (readButton s).calibrating = s.calibrating := rfl
@[simp] theorem readButton_response (s : State) : (readButton s).response = s.response := rfl
@[simp] theorem readButton_resetPin (s : State) : (readButton s).resetPin = s.resetPin := rfl
@[simp] theorem readButton_resetAfter (s : State) : (readButton s).resetAfter = s.resetAfter := rfl
@[simp] theorem readButton_presented (s : State) : (readButton s).presented = s.presented := rfl
@[simp] theorem readButton_homeIn (s : State) : (readButton s).homeIn = s.homeIn := rfl
@[simp] theorem readButton_buttonIn (s : State) : (readButton s).buttonIn = s.buttonIn.tail := rfl
@[simp] theorem readButton_draws (s : State) : (readButton s).draws = drawsAfter s.buttonIn s.draws := rfl
@[simp] theorem readButton_trace (s : State) : (readButton s).trace = s.trace ++ [.buttonSample (buttonLevel s)] := rfl
@[simp] theorem readButton_statusSeen (s : State) : (readButton s).statusSeen = s.statusSeen := rfl

/-! ### raiseHomeFailure -/

@[simp] theorem raiseHomeFailure_cfg (k : HomeFailure) (s : State) : (raiseHomeFailure k s).cfg = s.cfg := rfl
@[simp] theorem raiseHomeFailure_phaseIdx (k : HomeFailure) (s : State) : (raiseHomeFailure k s).phaseIdx = s.phaseIdx := rfl
@[simp] theorem raiseHomeFailure_lastMinutes (k : HomeFailure) (s : State) : (raiseHomeFailure k s).lastMinutes = s.lastMinutes := rfl
@[simp] theorem raiseHomeFailure_lastPosition (k : HomeFailure) (s : State) : (raiseHomeFailure k s).lastPosition = s.lastPosition := rfl
@[simp] theorem raiseHomeFailure_hstate (k : HomeFailure) (s : State) : (raiseHomeFailure k s).hstate = failureState k := rfl
@[simp] theorem raiseHomeFailure_status (k : HomeFailure) (s : State) : (raiseHomeFailure k s).status = failureCode k := rfl
@[simp] theorem raiseHomeFailure_busy (k : HomeFailure) (s : State) : (raiseHomeFailure k s).busy = s.busy := rfl
@[simp] theorem raiseHomeFailure_out (k : HomeFailure) (s : State) : (raiseHomeFailure k s).out = s.out := rfl
@[simp] theorem raiseHomeFailure_calibrating (k : HomeFailure) (s : State) : (raiseHomeFailure k s).calibrating = s.calibrating := rfl
@[simp] theorem raiseHomeFailure_response (k : HomeFailure) (s : State) : (raiseHomeFailure k s).response = s.response := rfl
@[simp] theorem raiseHomeFailure_resetPin (k : HomeFailure) (s : State) : (raiseHomeFailure k s).resetPin = s.resetPin := rfl
@[simp] theorem raiseHomeFailure_resetAfter (k : HomeFailure) (s : State) : (raiseHomeFailure k s).resetAfter = s.resetAfter := rfl
@[simp] theorem raiseHomeFailure_presented (k : HomeFailure) (s : State) : (raiseHomeFailure k s).presented = s.presented := rfl
@[simp] theorem raiseHomeFailure_homeIn (k : HomeFailure) (s : State) : (raiseHomeFailure k s).homeIn = s.homeIn := rfl
@[simp] theorem raiseHomeFailure_buttonIn (k : HomeFailure) (s : State) : (raiseHomeFailure k s).buttonIn = s.buttonIn := rfl
@[simp] theorem raiseHomeFailure_draws (k : HomeFailure) (s : State) : (raiseHomeFailure k s).draws = s.draws := rfl
@[simp] theorem raiseHomeFailure_trace (k : HomeFailure) (s : State) : (raiseHomeFailure k s).trace = s.trace := rfl
@[simp] theorem raiseHomeFailure_statusSeen (k : HomeFailure) (s : State) : (raiseHomeFailure k s).statusSeen = s.statusSeen ++ [⟨s.trace.length, failureState k, failureCode k⟩] := rfl

/-! ### accept -/

@[simp] theorem accept_cfg (s : State) : (accept s).cfg = s.cfg := rfl
@[simp] theorem accept_phaseIdx (s : State) : (accept s).phaseIdx = s.phaseIdx := rfl
@[simp] theorem accept_lastMinutes (s : State) : (accept s).lastMinutes = s.lastMinutes := rfl
@[simp] theorem accept_lastPosition (s : State) : (accept s).lastPosition = s.lastPosition := rfl
@[simp] theorem accept_hstate (s : State) : (accept s).hstate = s.hstate := rfl
@[simp] theorem accept_status (s : State) : (accept s).status = s.status := rfl
@[simp] theorem accept_busy (s : State) : (accept s).busy = true := rfl
@[simp] theorem accept_out (s : State) : (accept s).out = s.out := rfl
@[simp] theorem accept_calibrating (s : State) : (accept s).calibrating = s.calibrating := rfl
@[simp] theorem accept_response (s : State) : (accept s).response = none := rfl
@[simp] theorem accept_resetPin (s : State) : (accept s).resetPin = s.resetPin := rfl
@[simp] theorem accept_resetAfter (s : State) : (accept s).resetAfter = s.resetAfter := rfl
@[simp] theorem accept_presented (s : State) : (accept s).presented = s.presented.tail := rfl
@[simp] theorem accept_homeIn (s : State) : (accept s).homeIn = s.homeIn := rfl
@[simp] theorem accept_buttonIn (s : State) : (accept s).buttonIn = s.buttonIn := rfl
@[simp] theorem accept_draws (s : State) : (accept s).draws = s.draws := rfl
@[simp] theorem accept_trace (s : State) : (accept s).trace = [] := rfl
@[simp] theorem accept_statusSeen (s : State) : (accept s).statusSeen = [⟨0, s.hstate, s.status⟩] := rfl

/-! ### respond -/

@[simp] theorem respond_cfg (w : Response) (s : State) : (respond w s).cfg = s.cfg := rfl
@[simp] theorem respond_phaseIdx (w : Response) (s : State) : (respond w s).phaseIdx = s.phaseIdx := rfl
@[simp] theorem respond_lastMinutes (w : Response) (s : State) : (respond w s).lastMinutes = s.lastMinutes := rfl
@[simp] theorem respond_lastPosition (w : Response) (s : State) : (respond w s).lastPosition = s.lastPosition := rfl
@[simp] theorem respond_hstate (w : Response) (s : State) : (respond w s).hstate = s.hstate := rfl
@[simp] theorem respond_status (w : Response) (s : State) : (respond w s).status = s.status := rfl
@[simp] theorem respond_busy (w : Response) (s : State) : (respond w s).busy = false := rfl
@[simp] theorem respond_out (w : Response) (s : State) : (respond w s).out = s.out := rfl
@[simp] theorem respond_calibrating (w : Response) (s : State) : (respond w s).calibrating = false := rfl
@[simp] theorem respond_response (w : Response) (s : State) : (respond w s).response = some w := rfl
@[simp] theorem respond_resetPin (w : Response) (s : State) : (respond w s).resetPin = s.resetPin := rfl
@[simp] theorem respond_resetAfter (w : Response) (s : State) : (respond w s).resetAfter = s.resetAfter := rfl
@[simp] theorem respond_presented (w : Response) (s : State) : (respond w s).presented = s.presented := rfl
@[simp] theorem respond_homeIn (w : Response) (s : State) : (respond w s).homeIn = s.homeIn := rfl
@[simp] theorem respond_buttonIn (w : Response) (s : State) : (respond w s).buttonIn = s.buttonIn := rfl
@[simp] theorem respond_draws (w : Response) (s : State) : (respond w s).draws = s.draws := rfl
@[simp] theorem respond_trace (w : Response) (s : State) : (respond w s).trace = s.trace := rfl
@[simp] theorem respond_statusSeen (w : Response) (s : State) : (respond w s).statusSeen = s.statusSeen := rfl

/-! ### answerIllegal -/

@[simp] theorem answerIllegal_cfg (s : State) : (answerIllegal s).cfg = s.cfg := rfl
@[simp] theorem answerIllegal_phaseIdx (s : State) : (answerIllegal s).phaseIdx = s.phaseIdx := rfl
@[simp] theorem answerIllegal_lastMinutes (s : State) : (answerIllegal s).lastMinutes = s.lastMinutes := rfl
@[simp] theorem answerIllegal_lastPosition (s : State) : (answerIllegal s).lastPosition = s.lastPosition := rfl
@[simp] theorem answerIllegal_hstate (s : State) : (answerIllegal s).hstate = s.hstate := rfl
@[simp] theorem answerIllegal_status (s : State) : (answerIllegal s).status = s.status := rfl
@[simp] theorem answerIllegal_busy (s : State) : (answerIllegal s).busy = false := rfl
@[simp] theorem answerIllegal_out (s : State) : (answerIllegal s).out = s.out := rfl
@[simp] theorem answerIllegal_calibrating (s : State) : (answerIllegal s).calibrating = false := rfl
@[simp] theorem answerIllegal_response (s : State) : (answerIllegal s).response = some (responseWord true 0#2) := rfl
@[simp] theorem answerIllegal_resetPin (s : State) : (answerIllegal s).resetPin = s.resetPin := rfl
@[simp] theorem answerIllegal_resetAfter (s : State) : (answerIllegal s).resetAfter = s.resetAfter := rfl
@[simp] theorem answerIllegal_presented (s : State) : (answerIllegal s).presented = s.presented := rfl
@[simp] theorem answerIllegal_homeIn (s : State) : (answerIllegal s).homeIn = s.homeIn := rfl
@[simp] theorem answerIllegal_buttonIn (s : State) : (answerIllegal s).buttonIn = s.buttonIn := rfl
@[simp] theorem answerIllegal_draws (s : State) : (answerIllegal s).draws = s.draws := rfl
@[simp] theorem answerIllegal_trace (s : State) : (answerIllegal s).trace = s.trace := rfl
@[simp] theorem answerIllegal_statusSeen (s : State) : (answerIllegal s).statusSeen = s.statusSeen := rfl

/-! ### stayInFlight -/

@[simp] theorem stayInFlight_cfg (s : State) : (stayInFlight s).cfg = s.cfg := rfl
@[simp] theorem stayInFlight_phaseIdx (s : State) : (stayInFlight s).phaseIdx = s.phaseIdx := rfl
@[simp] theorem stayInFlight_lastMinutes (s : State) : (stayInFlight s).lastMinutes = s.lastMinutes := rfl
@[simp] theorem stayInFlight_lastPosition (s : State) : (stayInFlight s).lastPosition = s.lastPosition := rfl
@[simp] theorem stayInFlight_hstate (s : State) : (stayInFlight s).hstate = s.hstate := rfl
@[simp] theorem stayInFlight_status (s : State) : (stayInFlight s).status = s.status := rfl
@[simp] theorem stayInFlight_busy (s : State) : (stayInFlight s).busy = true := rfl
@[simp] theorem stayInFlight_out (s : State) : (stayInFlight s).out = s.out := rfl
@[simp] theorem stayInFlight_calibrating (s : State) : (stayInFlight s).calibrating = true := rfl
@[simp] theorem stayInFlight_response (s : State) : (stayInFlight s).response = s.response := rfl
@[simp] theorem stayInFlight_resetPin (s : State) : (stayInFlight s).resetPin = s.resetPin := rfl
@[simp] theorem stayInFlight_resetAfter (s : State) : (stayInFlight s).resetAfter = s.resetAfter := rfl
@[simp] theorem stayInFlight_presented (s : State) : (stayInFlight s).presented = s.presented := rfl
@[simp] theorem stayInFlight_homeIn (s : State) : (stayInFlight s).homeIn = s.homeIn := rfl
@[simp] theorem stayInFlight_buttonIn (s : State) : (stayInFlight s).buttonIn = s.buttonIn := rfl
@[simp] theorem stayInFlight_draws (s : State) : (stayInFlight s).draws = s.draws := rfl
@[simp] theorem stayInFlight_trace (s : State) : (stayInFlight s).trace = s.trace := rfl
@[simp] theorem stayInFlight_statusSeen (s : State) : (stayInFlight s).statusSeen = s.statusSeen := rfl

/-! ### waitStep -/

@[simp] theorem waitStep_cfg (s : State) : (waitStep s).cfg = s.cfg := rfl
@[simp] theorem waitStep_phaseIdx (s : State) : (waitStep s).phaseIdx = s.phaseIdx := rfl
@[simp] theorem waitStep_lastMinutes (s : State) : (waitStep s).lastMinutes = s.lastMinutes := rfl
@[simp] theorem waitStep_lastPosition (s : State) : (waitStep s).lastPosition = s.lastPosition := rfl
@[simp] theorem waitStep_hstate (s : State) : (waitStep s).hstate = s.hstate := rfl
@[simp] theorem waitStep_status (s : State) : (waitStep s).status = s.status := rfl
@[simp] theorem waitStep_busy (s : State) : (waitStep s).busy = s.busy := rfl
@[simp] theorem waitStep_out (s : State) : (waitStep s).out = s.out := rfl
@[simp] theorem waitStep_calibrating (s : State) : (waitStep s).calibrating = s.calibrating := rfl
@[simp] theorem waitStep_response (s : State) : (waitStep s).response = none := rfl
@[simp] theorem waitStep_resetPin (s : State) : (waitStep s).resetPin = s.resetPin := rfl
@[simp] theorem waitStep_resetAfter (s : State) : (waitStep s).resetAfter = s.resetAfter := rfl
@[simp] theorem waitStep_presented (s : State) : (waitStep s).presented = s.presented := rfl
@[simp] theorem waitStep_homeIn (s : State) : (waitStep s).homeIn = s.homeIn := rfl
@[simp] theorem waitStep_buttonIn (s : State) : (waitStep s).buttonIn = s.buttonIn := rfl
@[simp] theorem waitStep_draws (s : State) : (waitStep s).draws = s.draws := rfl
@[simp] theorem waitStep_trace (s : State) : (waitStep s).trace = s.trace := rfl
@[simp] theorem waitStep_statusSeen (s : State) : (waitStep s).statusSeen = s.statusSeen := rfl

/-! ### resetEvent -/

@[simp] theorem resetEvent_cfg (s : State) : (resetEvent s).cfg = s.cfg := rfl
@[simp] theorem resetEvent_phaseIdx (s : State) : (resetEvent s).phaseIdx = 0#3 := rfl
@[simp] theorem resetEvent_lastMinutes (s : State) : (resetEvent s).lastMinutes = 0#11 := rfl
@[simp] theorem resetEvent_lastPosition (s : State) : (resetEvent s).lastPosition = 0#32 := rfl
@[simp] theorem resetEvent_hstate (s : State) : (resetEvent s).hstate = .idle := rfl
@[simp] theorem resetEvent_status (s : State) : (resetEvent s).status = 0#2 := rfl
@[simp] theorem resetEvent_busy (s : State) : (resetEvent s).busy = false := rfl
@[simp] theorem resetEvent_out (s : State) : (resetEvent s).out = s.out &&& ~~~(allMask s.cfg.val) := rfl
@[simp] theorem resetEvent_calibrating (s : State) : (resetEvent s).calibrating = false := rfl
@[simp] theorem resetEvent_response (s : State) : (resetEvent s).response = none := rfl
@[simp] theorem resetEvent_resetPin (s : State) : (resetEvent s).resetPin = s.resetPin := rfl
@[simp] theorem resetEvent_resetAfter (s : State) : (resetEvent s).resetAfter = s.resetAfter := rfl
@[simp] theorem resetEvent_presented (s : State) : (resetEvent s).presented = s.presented := rfl
@[simp] theorem resetEvent_homeIn (s : State) : (resetEvent s).homeIn = s.homeIn := rfl
@[simp] theorem resetEvent_buttonIn (s : State) : (resetEvent s).buttonIn = s.buttonIn := rfl
@[simp] theorem resetEvent_draws (s : State) : (resetEvent s).draws = s.draws := rfl
@[simp] theorem resetEvent_trace (s : State) : (resetEvent s).trace = [] := rfl
@[simp] theorem resetEvent_statusSeen (s : State) : (resetEvent s).statusSeen = [] := rfl

/-! ### abandon -/

@[simp] theorem abandon_cfg (made : List Event) (seen : List StatusShown) (s : State) : (abandon made seen s).cfg = s.cfg := rfl
@[simp] theorem abandon_phaseIdx (made : List Event) (seen : List StatusShown) (s : State) : (abandon made seen s).phaseIdx = 0#3 := rfl
@[simp] theorem abandon_lastMinutes (made : List Event) (seen : List StatusShown) (s : State) : (abandon made seen s).lastMinutes = 0#11 := rfl
@[simp] theorem abandon_lastPosition (made : List Event) (seen : List StatusShown) (s : State) : (abandon made seen s).lastPosition = 0#32 := rfl
@[simp] theorem abandon_hstate (made : List Event) (seen : List StatusShown) (s : State) : (abandon made seen s).hstate = .idle := rfl
@[simp] theorem abandon_status (made : List Event) (seen : List StatusShown) (s : State) : (abandon made seen s).status = 0#2 := rfl
@[simp] theorem abandon_busy (made : List Event) (seen : List StatusShown) (s : State) : (abandon made seen s).busy = false := rfl
@[simp] theorem abandon_out (made : List Event) (seen : List StatusShown) (s : State) : (abandon made seen s).out = s.out &&& ~~~(allMask s.cfg.val) := rfl
@[simp] theorem abandon_calibrating (made : List Event) (seen : List StatusShown) (s : State) : (abandon made seen s).calibrating = false := rfl
@[simp] theorem abandon_response (made : List Event) (seen : List StatusShown) (s : State) : (abandon made seen s).response = none := rfl
@[simp] theorem abandon_resetPin (made : List Event) (seen : List StatusShown) (s : State) : (abandon made seen s).resetPin = s.resetPin := rfl
@[simp] theorem abandon_resetAfter (made : List Event) (seen : List StatusShown) (s : State) : (abandon made seen s).resetAfter = none := rfl
@[simp] theorem abandon_presented (made : List Event) (seen : List StatusShown) (s : State) : (abandon made seen s).presented = s.presented := rfl
@[simp] theorem abandon_homeIn (made : List Event) (seen : List StatusShown) (s : State) : (abandon made seen s).homeIn = s.homeIn.drop (made.filter isHomeSample).length := rfl
@[simp] theorem abandon_buttonIn (made : List Event) (seen : List StatusShown) (s : State) : (abandon made seen s).buttonIn = s.buttonIn.drop (made.filter isButtonSample).length := rfl
@[simp] theorem abandon_draws (made : List Event) (seen : List StatusShown) (s : State) : (abandon made seen s).draws = s.draws + ((made.filter isHomeSample).length - s.homeIn.length) + ((made.filter isButtonSample).length - s.buttonIn.length) := rfl
@[simp] theorem abandon_trace (made : List Event) (seen : List StatusShown) (s : State) : (abandon made seen s).trace = s.trace ++ made := rfl
@[simp] theorem abandon_statusSeen (made : List Event) (seen : List StatusShown) (s : State) : (abandon made seen s).statusSeen = shownBy (s.trace.length + made.length) seen := rfl

/-! ### placeWord -/

@[simp] theorem placeWord_cfg (w : Command) (s : State) : (placeWord w s).cfg = s.cfg := rfl
@[simp] theorem placeWord_phaseIdx (w : Command) (s : State) : (placeWord w s).phaseIdx = s.phaseIdx := rfl
@[simp] theorem placeWord_lastMinutes (w : Command) (s : State) : (placeWord w s).lastMinutes = s.lastMinutes := rfl
@[simp] theorem placeWord_lastPosition (w : Command) (s : State) : (placeWord w s).lastPosition = s.lastPosition := rfl
@[simp] theorem placeWord_hstate (w : Command) (s : State) : (placeWord w s).hstate = s.hstate := rfl
@[simp] theorem placeWord_status (w : Command) (s : State) : (placeWord w s).status = s.status := rfl
@[simp] theorem placeWord_busy (w : Command) (s : State) : (placeWord w s).busy = false := rfl
@[simp] theorem placeWord_out (w : Command) (s : State) : (placeWord w s).out = s.out := rfl
@[simp] theorem placeWord_calibrating (w : Command) (s : State) : (placeWord w s).calibrating = false := rfl
@[simp] theorem placeWord_response (w : Command) (s : State) : (placeWord w s).response = s.response := rfl
@[simp] theorem placeWord_resetPin (w : Command) (s : State) : (placeWord w s).resetPin = false := rfl
@[simp] theorem placeWord_resetAfter (w : Command) (s : State) : (placeWord w s).resetAfter = none := rfl
@[simp] theorem placeWord_presented (w : Command) (s : State) : (placeWord w s).presented = w :: s.presented.tail := rfl
@[simp] theorem placeWord_homeIn (w : Command) (s : State) : (placeWord w s).homeIn = s.homeIn := rfl
@[simp] theorem placeWord_buttonIn (w : Command) (s : State) : (placeWord w s).buttonIn = s.buttonIn := rfl
@[simp] theorem placeWord_draws (w : Command) (s : State) : (placeWord w s).draws = s.draws := rfl
@[simp] theorem placeWord_trace (w : Command) (s : State) : (placeWord w s).trace = s.trace := rfl
@[simp] theorem placeWord_statusSeen (w : Command) (s : State) : (placeWord w s).statusSeen = s.statusSeen := rfl

/-! ### homeReached -/

@[simp] theorem homeReached_cfg (s : State) : (homeReached s).cfg = s.cfg := rfl
@[simp] theorem homeReached_phaseIdx (s : State) : (homeReached s).phaseIdx = s.phaseIdx := rfl
@[simp] theorem homeReached_lastMinutes (s : State) : (homeReached s).lastMinutes = 0#11 := rfl
@[simp] theorem homeReached_lastPosition (s : State) : (homeReached s).lastPosition = 0#32 := rfl
@[simp] theorem homeReached_hstate (s : State) : (homeReached s).hstate = .homed := rfl
@[simp] theorem homeReached_status (s : State) : (homeReached s).status = 0#2 := rfl
@[simp] theorem homeReached_busy (s : State) : (homeReached s).busy = s.busy := rfl
@[simp] theorem homeReached_out (s : State) : (homeReached s).out = s.out := rfl
@[simp] theorem homeReached_calibrating (s : State) : (homeReached s).calibrating = s.calibrating := rfl
@[simp] theorem homeReached_response (s : State) : (homeReached s).response = s.response := rfl
@[simp] theorem homeReached_resetPin (s : State) : (homeReached s).resetPin = s.resetPin := rfl
@[simp] theorem homeReached_resetAfter (s : State) : (homeReached s).resetAfter = s.resetAfter := rfl
@[simp] theorem homeReached_presented (s : State) : (homeReached s).presented = s.presented := rfl
@[simp] theorem homeReached_homeIn (s : State) : (homeReached s).homeIn = s.homeIn := rfl
@[simp] theorem homeReached_buttonIn (s : State) : (homeReached s).buttonIn = s.buttonIn := rfl
@[simp] theorem homeReached_draws (s : State) : (homeReached s).draws = s.draws := rfl
@[simp] theorem homeReached_trace (s : State) : (homeReached s).trace = s.trace := rfl
@[simp] theorem homeReached_statusSeen (s : State) : (homeReached s).statusSeen = s.statusSeen ++ [⟨s.trace.length, .homed, 0#2⟩] := rfl

/-! ### endCalibrate -/

@[simp] theorem endCalibrate_cfg (s : State) : (endCalibrate s).cfg = s.cfg := rfl
@[simp] theorem endCalibrate_phaseIdx (s : State) : (endCalibrate s).phaseIdx = s.phaseIdx := rfl
@[simp] theorem endCalibrate_lastMinutes (s : State) : (endCalibrate s).lastMinutes = s.lastMinutes := rfl
@[simp] theorem endCalibrate_lastPosition (s : State) : (endCalibrate s).lastPosition = s.lastPosition := rfl
@[simp] theorem endCalibrate_hstate (s : State) : (endCalibrate s).hstate = s.hstate := rfl
@[simp] theorem endCalibrate_status (s : State) : (endCalibrate s).status = s.status := rfl
@[simp] theorem endCalibrate_busy (s : State) : (endCalibrate s).busy = false := rfl
@[simp] theorem endCalibrate_out (s : State) : (endCalibrate s).out = s.out := rfl
@[simp] theorem endCalibrate_calibrating (s : State) : (endCalibrate s).calibrating = false := rfl
@[simp] theorem endCalibrate_response (s : State) : (endCalibrate s).response = some (responseWord false 0#2) := rfl
@[simp] theorem endCalibrate_resetPin (s : State) : (endCalibrate s).resetPin = s.resetPin := rfl
@[simp] theorem endCalibrate_resetAfter (s : State) : (endCalibrate s).resetAfter = s.resetAfter := rfl
@[simp] theorem endCalibrate_presented (s : State) : (endCalibrate s).presented = s.presented := rfl
@[simp] theorem endCalibrate_homeIn (s : State) : (endCalibrate s).homeIn = s.homeIn := rfl
@[simp] theorem endCalibrate_buttonIn (s : State) : (endCalibrate s).buttonIn = s.buttonIn := rfl
@[simp] theorem endCalibrate_draws (s : State) : (endCalibrate s).draws = s.draws := rfl
@[simp] theorem endCalibrate_trace (s : State) : (endCalibrate s).trace = s.trace := rfl
@[simp] theorem endCalibrate_statusSeen (s : State) : (endCalibrate s).statusSeen = s.statusSeen := rfl

end Sys2Proof.Machine
end

