-- ==== Sys2Proof/Laws/Stepper.lean ====
section
/-! SUPPORT. What the Stepper Driver's operations do, said once (40_stepper_driver.md R75 to R84): `pulses_eq` and
`stepMotor_eq` are the closed forms that every later proof about a move cites. -/

namespace Sys2Proof.Machine

/-! ### The phase count -/

theorem phaseCount_cases (p : Params) : phaseCount p = 4 ∨ phaseCount p = 8 := by
  unfold phaseCount; split <;> simp

theorem phaseCount_pos (p : Params) : 0 < phaseCount p := by
  rcases phaseCount_cases p with h | h <;> omega

theorem phaseCount_le (p : Params) : phaseCount p ≤ 8 := by
  rcases phaseCount_cases p with h | h <;> omega

/-- A phase index fits its register (10_state.md R20). -/
theorem toNat_phase (p : Params) (x : Nat) : (BitVec.ofNat 3 (x % phaseCount p)).toNat = x % phaseCount p := by
  have := Nat.mod_lt x (phaseCount_pos p)
  have := phaseCount_le p
  simp only [BitVec.toNat_ofNat]
  omega

theorem phaseAfter_lt (p : Params) (start : Nat) (k : Int) : phaseAfter p start k < phaseCount p := by
  have h := phaseCount_pos p
  have h1 := Int.emod_lt_of_pos ((start : Int) + k) (by omega : (0 : Int) < phaseCount p)
  have h2 := Int.emod_nonneg ((start : Int) + k) (by omega : (phaseCount p : Int) ≠ 0)
  unfold phaseAfter
  omega

/-- Two moves in a row move the phase index by their sum (R84). -/
theorem phaseAfter_phaseAfter (p : Params) (start : Nat) (a b : Int) :
    phaseAfter p (phaseAfter p start a) b = phaseAfter p start (a + b) := by
  rcases phaseCount_cases p with h | h <;> simp only [phaseAfter, h] <;> omega

/-! ### Delays and the trace -/

/-- A delay after an event that is no delay is appended (00_scope.md R16). -/
theorem mergeDelay_after (d : Nat) (t : List Event) (e : Event) (he : ∀ a, e ≠ .delay a) :
    mergeDelay d (t ++ [e]) = t ++ [e] ++ [.delay d] := by
  induction t with
  | nil => cases e <;> simp [mergeDelay] at he ⊢
  | cons e' rest ih =>
    cases rest with
    | nil => cases e' <;> cases e <;> simp [mergeDelay] at ih ⊢
    | cons e'' rest' => cases e' <;> simp [mergeDelay] at ih ⊢ <;> exact ih

theorem delayedTrace_after (d : Nat) (t : List Event) (e : Event) (he : ∀ a, e ≠ .delay a) :
    delayedTrace d (t ++ [e]) = t ++ [e] ++ delayEvents d := by
  unfold delayedTrace delayEvents
  split
  · simp
  · exact mergeDelay_after d t e he

theorem delayedTrace_after_set (d : Nat) (t : List Event) (m : Bank) :
    delayedTrace d (t ++ [.set m]) = t ++ [.set m] ++ delayEvents d :=
  delayedTrace_after d t _ (by simp)

theorem delayedTrace_after_button (d : Nat) (t : List Event) (b : Bool) :
    delayedTrace d (t ++ [.buttonSample b]) = t ++ [.buttonSample b] ++ delayEvents d :=
  delayedTrace_after d t _ (by simp)

/-! ### Masks -/

theorem pinBit_subset (pat : Pattern) (k : Nat) (hk : k < 4) (pin : Fin 32) :
    pinBit pat k pin &&& ~~~(pinBit 0b1111#4 k pin) = 0#32 := by
  have h : (0b1111#4).getLsbD k = true := by
    rcases (by omega : k = 0 ∨ k = 1 ∨ k = 2 ∨ k = 3) with h | h | h | h <;> subst h <;> decide
  unfold pinBit
  rw [h]
  split <;> ext i hi <;> simp

/-- A pattern's mask lies inside `ALLMASK` (20_memory.md R42). -/
theorem pinMask_subset (p : Params) (pat : Pattern) : pinMask p pat &&& ~~~(allMask p) = 0#32 := by
  have h0 := pinBit_subset pat 0 (by omega) p.pin0
  have h1 := pinBit_subset pat 1 (by omega) p.pin1
  have h2 := pinBit_subset pat 2 (by omega) p.pin2
  have h3 := pinBit_subset pat 3 (by omega) p.pin3
  unfold allMask pinMask
  ext i hi
  have e0 := congrArg (fun x => x.getLsbD i) h0
  have e1 := congrArg (fun x => x.getLsbD i) h1
  have e2 := congrArg (fun x => x.getLsbD i) h2
  have e3 := congrArg (fun x => x.getLsbD i) h3
  simp [hi] at e0 e1 e2 e3 ⊢
  grind

/-- Setting a pattern's pins and then clearing all is clearing all (R77). -/
theorem set_then_clear (p : Params) (bank : Bank) (pat : Pattern) :
    (bank ||| pinMask p pat) &&& ~~~(allMask p) = releasedBank p bank := by
  have h := pinMask_subset p pat
  unfold releasedBank
  ext i hi
  have e := congrArg (fun x => x.getLsbD i) h
  simp [hi] at e ⊢
  grind

theorem releasedBank_released (p : Params) (bank : Bank) : releasedBank p (releasedBank p bank) = releasedBank p bank := by
  unfold releasedBank; ext i hi; simp

/-! ### One iteration, and a whole move -/

theorem pulse_eq (speed : Speed) (inc j n : Nat) (s : State) :
    pulse speed inc j n s = { s with
      phaseIdx := BitVec.ofNat 3 ((s.phaseIdx.toNat + inc) % phaseCount s.cfg.val)
      out := releasedBank s.cfg.val s.out
      trace := s.trace ++ pulseEvents s.cfg.val ((s.phaseIdx.toNat + inc) % phaseCount s.cfg.val)
        (delayUnits speed j n * rapidDelayUs s.cfg.val) } := by
  unfold pulse gpioClear delay gpioSet writePhaseIdx
  simp only [set_then_clear, delayedTrace_after_set, pulseEvents, List.append_assoc, List.cons_append, List.nil_append]

/-- The last `k + 1` of `n` iterations, as a whole. -/
theorem pulses_eq (speed : Speed) (inc n k : Nat) (hk : k + 1 ≤ n) (s : State) :
    pulses speed inc n (k + 1) s = { s with
      phaseIdx := BitVec.ofNat 3 ((s.phaseIdx.toNat + (k + 1) * inc) % phaseCount s.cfg.val)
      out := releasedBank s.cfg.val s.out
      trace := s.trace ++ (List.range (k + 1)).flatMap fun j =>
        pulseEvents s.cfg.val ((s.phaseIdx.toNat + (j + 1) * inc) % phaseCount s.cfg.val)
          (delayUnits speed (n - (k + 1) + j) n * rapidDelayUs s.cfg.val) } := by
  induction k generalizing s with
  | zero => simp [pulses, pulse_eq]
  | succ k ih =>
    rw [pulses, ih (by omega), pulse_eq]
    simp only [toNat_phase, releasedBank_released, Nat.mod_add_mod]
    rw [List.range_succ_eq_map (n := k + 1), List.flatMap_cons, List.flatMap_map]
    simp only [List.append_assoc]
    have e (j : Nat) : s.phaseIdx.toNat + inc + (j + 1) * inc = s.phaseIdx.toNat + (j.succ + 1) * inc := by
      simp only [Nat.succ_eq_add_one]; ring
    have f (j : Nat) : n - (k + 1) + j = n - (k + 1 + 1) + j.succ := by simp only [Nat.succ_eq_add_one]; omega
    simp only [e, f]
    simp [Nat.add_mul, Nat.add_assoc]

theorem phaseIncrement_mod (p : Params) (start m : Nat) (steps : Int) :
    (start + m * phaseIncrement p steps) % phaseCount p = phaseAfter p start (moveSign steps * m) := by
  unfold phaseIncrement moveSign phaseAfter
  rcases phaseCount_cases p with h | h <;> split <;> simp only [h] <;> omega

/-- `step(steps, speed)` as a whole: the phase index, the outputs, the events, and nothing else (R75 to R78, R84). -/
theorem stepMotor_eq (steps : Int) (speed : Speed) (s : State) :
    stepMotor steps speed s = { s with
      phaseIdx := phaseIdxAfter s.cfg.val s.phaseIdx steps
      out := releasedBank s.cfg.val s.out
      trace := s.trace ++ moveEvents s.cfg.val (delayUnits speed) s.phaseIdx.toNat steps } := by
  unfold stepMotor phaseIdxAfter moveEvents
  split
  · rfl
  · rename_i h
    obtain ⟨k, hk⟩ : ∃ k, steps.natAbs = k + 1 := ⟨steps.natAbs - 1, by omega⟩
    have hs : moveSign steps * ((k + 1 : Nat) : Int) = steps := by unfold moveSign; split <;> omega
    rw [hk, pulses_eq _ _ _ _ (Nat.le_refl _)]
    simp only [phaseIncrement_mod, hs, Nat.sub_self, Nat.zero_add]
    push_cast
    rfl

/-- A phase index that moved is in range (R21). -/
theorem toNat_phaseIdxAfter (p : Params) (idx : BitVec 3) (steps : Int) (h : idx.toNat < phaseCount p) :
    (phaseIdxAfter p idx steps).toNat = phaseAfter p idx.toNat steps := by
  unfold phaseIdxAfter
  split
  · rename_i h0
    rcases phaseCount_cases p with h1 | h1 <;> simp only [phaseAfter, h1, h0] at h ⊢ <;> omega
  · have := phaseAfter_lt p idx.toNat steps
    have := phaseCount_le p
    simp only [BitVec.toNat_ofNat]
    omega

end Sys2Proof.Machine
end

