-- ==== Sys2Proof/Laws/Homing.lean ====
section
/-! SUPPORT. What the three loops of HOME do when the environment's answers are given (43_homing.md R112 to R117), one
lemma per loop and outcome. -/

namespace Sys2Proof.Machine

theorem rawLevel_xor (p : Params) (b : Bool) : xor (rawLevel p b) p.homeNo = b := by
  unfold rawLevel; cases b <;> cases p.homeNo <;> rfl

theorem phaseAfter_zero (p : Params) (start : Nat) : phaseAfter p start 0 = start % phaseCount p := by
  simp [phaseAfter]; omega

theorem toNat_ofNat_phaseAfter (p : Params) (start : Nat) (k : Int) :
    (BitVec.ofNat 3 (phaseAfter p start k)).toNat = phaseAfter p start k := by
  have := phaseAfter_lt p start k
  have := phaseCount_le p
  simp only [BitVec.toNat_ofNat]
  omega

/-- In range, moving by 0 is staying. -/
theorem ofNat_phaseAfter_zero (p : Params) (idx : BitVec 3) (h : idx.toNat < phaseCount p) :
    BitVec.ofNat 3 (phaseAfter p idx.toNat 0) = idx := by
  rw [phaseAfter_zero, Nat.mod_eq_of_lt h]
  simp

/-- One step in a direction (R112, R114, R116). -/
theorem stepMotor_one (dir : Int) (hd : dir = 1 ∨ dir = -1) (speed : Speed) (s : State) :
    stepMotor dir speed s = { s with
      phaseIdx := BitVec.ofNat 3 (phaseAfter s.cfg.val s.phaseIdx.toNat dir)
      out := releasedBank s.cfg.val s.out
      trace := s.trace ++ pulseEvents s.cfg.val (phaseAfter s.cfg.val s.phaseIdx.toNat dir)
        (delayUnits speed 0 1 * rapidDelayUs s.cfg.val) } := by
  rw [stepMotor_eq]
  rcases hd with rfl | rfl <;> simp [phaseIdxAfter, moveEvents, moveSign]

/-- A sample of the home input when the answer is given (41_home_sensor_port.md R90, 20_memory.md R46). -/
theorem sampleHome_placed (s : State) (b : Bool) (rest : List Bool) (h : s.homeIn = rawLevel s.cfg.val b :: rest) :
    sampleHome s = (b, { s with homeIn := rest, trace := s.trace ++ [.homeSample (rawLevel s.cfg.val b)] }) := by
  simp [sampleHome, homeActive, homeRaw, readHomeRaw, nextAnswer, drawsAfter, h, rawLevel_xor]

/-- The state after `n` steps in the direction `dir`, with the events `ev`, when `rest` is left of the answers. -/
def afterSteps (dir : Int) (n : Nat) (rest : List Bool) (ev : List Event) (s : State) : State :=
  { s with
    phaseIdx := BitVec.ofNat 3 (phaseAfter s.cfg.val s.phaseIdx.toNat (dir * n))
    out := releasedBank s.cfg.val s.out
    homeIn := rest
    trace := s.trace ++ ev }

/-- One step and one sample of a loop of HOME. -/
theorem step_then_sample (dir : Int) (hd : dir = 1 ∨ dir = -1) (speed : Speed) (s : State)
    (b : Bool) (rest : List Bool) (h : s.homeIn = rawLevel s.cfg.val b :: rest) :
    sampleHome (stepMotor dir speed s) = (b, afterSteps dir 1 rest
      (stepSampleEvents s.cfg.val dir (delayUnits speed 0 1 * rapidDelayUs s.cfg.val) s.phaseIdx.toNat [b]) s) := by
  have e := stepMotor_one dir hd speed s
  rw [sampleHome_placed _ b rest (by rw [e]; exact h), e]
  simp [afterSteps, stepSampleEvents]

/-- Steps after steps: the closed forms compose. -/
theorem afterSteps_afterSteps (dir : Int) (us n : Nat) (r1 r2 : List Bool) (bs : List Bool) (b : Bool) (s : State) :
    afterSteps dir n r2 (stepSampleEvents s.cfg.val dir us
        (afterSteps dir 1 r1 (stepSampleEvents s.cfg.val dir us s.phaseIdx.toNat [b]) s).phaseIdx.toNat bs)
      (afterSteps dir 1 r1 (stepSampleEvents s.cfg.val dir us s.phaseIdx.toNat [b]) s)
    = afterSteps dir (n + 1) r2 (stepSampleEvents s.cfg.val dir us s.phaseIdx.toNat (b :: bs)) s := by
  have e : dir + dir * (n : Int) = dir * ((n + 1 : Nat) : Int) := by push_cast; ring
  simp only [afterSteps, stepSampleEvents, toNat_ofNat_phaseAfter, phaseAfter_phaseAfter, releasedBank_released,
    Nat.cast_one, mul_one, e, List.append_assoc, List.cons_append, List.nil_append]

/-- Phase 1 finds the sensor on the sample after step `p1 + 1` (R112). -/
theorem seekHome_found (p1 k : Nat) (hk : p1 + 1 ≤ k) (s : State) (rest : List Bool)
    (h : s.homeIn = (answersOf false p1).map (rawLevel s.cfg.val) ++ rest) :
    seekHome k s = (true, afterSteps 1 (p1 + 1) rest
      (seekEvents s.cfg.val s.phaseIdx.toNat (answersOf false p1)) s) := by
  induction p1 generalizing k s with
  | zero =>
    obtain ⟨k, rfl⟩ : ∃ j, k = j + 1 := ⟨k - 1, by omega⟩
    have h1 := step_then_sample 1 (.inl rfl) .fast s true rest (by simpa [answersOf] using h)
    simp only [seekHome, h1, if_true]
    simp [seekEvents, answersOf, delayUnits]
  | succ p1 ih =>
    obtain ⟨k, rfl⟩ : ∃ j, k = j + 1 := ⟨k - 1, by omega⟩
    have h1 := step_then_sample 1 (.inl rfl) .fast s false
      ((answersOf false p1).map (rawLevel s.cfg.val) ++ rest) (by simpa [answersOf, List.replicate_succ] using h)
    simp only [seekHome, h1, Bool.false_eq_true, if_false]
    rw [ih k (by omega) _ rfl]
    have e := afterSteps_afterSteps 1 (rapidDelayUs s.cfg.val) (p1 + 1)
      ((answersOf false p1).map (rawLevel s.cfg.val) ++ rest) rest (answersOf false p1) false s
    simp only [delayUnits, Nat.one_mul] at e ⊢
    exact congrArg (Prod.mk true) e

/-- Phase 1 exhausts its budget of `k + 1` steps without finding the sensor (R113). -/
theorem seekHome_exhausted (k : Nat) (s : State) (rest : List Bool)
    (h : s.homeIn = (List.replicate (k + 1) false).map (rawLevel s.cfg.val) ++ rest) :
    seekHome (k + 1) s = (false, afterSteps 1 (k + 1) rest
      (seekEvents s.cfg.val s.phaseIdx.toNat (List.replicate (k + 1) false)) s) := by
  induction k generalizing s with
  | zero =>
    have h1 := step_then_sample 1 (.inl rfl) .fast s false rest (by simpa using h)
    simp only [seekHome, h1, Bool.false_eq_true, if_false]
    simp [seekEvents, delayUnits]
  | succ k ih =>
    have h1 := step_then_sample 1 (.inl rfl) .fast s false
      ((List.replicate (k + 1) false).map (rawLevel s.cfg.val) ++ rest) (by simpa [List.replicate_succ] using h)
    rw [seekHome]
    simp only [h1, Bool.false_eq_true, if_false]
    rw [ih _ rfl]
    have e := afterSteps_afterSteps 1 (rapidDelayUs s.cfg.val) (k + 1)
      ((List.replicate (k + 1) false).map (rawLevel s.cfg.val) ++ rest) rest (List.replicate (k + 1) false) false s
    simp only [delayUnits, Nat.one_mul] at e ⊢
    exact congrArg (Prod.mk false) e

/-- Where a loop of phase 2 or 3 starts: the phase index in range and the outputs released (10_state.md R21, R28). -/
abbrev Settled (s : State) : Prop :=
  s.phaseIdx.toNat < phaseCount s.cfg.val ∧ releasedBank s.cfg.val s.out = s.out

theorem settled_afterSteps (dir : Int) (n : Nat) (rest : List Bool) (ev : List Event) (s : State) :
    Settled (afterSteps dir n rest ev s) := by
  refine ⟨?_, releasedBank_released _ _⟩
  simp only [afterSteps, toNat_ofNat_phaseAfter]
  exact phaseAfter_lt _ _ _

/-- A sample without a step (the entry sample of phases 2 and 3), in the closed form of the loops. -/
theorem sample_only (dir : Int) (us : Nat) (s : State) (hset : Settled s) (b : Bool) (rest : List Bool)
    (h : s.homeIn = rawLevel s.cfg.val b :: rest) :
    sampleHome s = (b, afterSteps dir 0 rest (sampleStepEvents s.cfg.val dir us s.phaseIdx.toNat [b]) s) := by
  rw [sampleHome_placed s b rest h]
  simp [afterSteps, sampleStepEvents, stepSampleEvents, ofNat_phaseAfter_zero _ _ hset.1, hset.2]

/-- A sample and a step, before the rest of a loop of phase 2 or 3. -/
theorem sample_then_step (dir : Int) (hd : dir = 1 ∨ dir = -1) (speed : Speed) (s : State) (b : Bool) (rest : List Bool)
    (h : s.homeIn = rawLevel s.cfg.val b :: rest) :
    (sampleHome s).1 = b ∧ stepMotor dir speed (sampleHome s).2 = afterSteps dir 1 rest
      (.homeSample (rawLevel s.cfg.val b) ::
        pulseEvents s.cfg.val (phaseAfter s.cfg.val s.phaseIdx.toNat dir) (delayUnits speed 0 1 * rapidDelayUs s.cfg.val)) s := by
  rw [sampleHome_placed s b rest h, stepMotor_one dir hd speed]
  simp [afterSteps]

/-- The closed forms of a loop of phase 2 or 3 compose. -/
theorem afterSteps_after_sample_step (dir : Int) (us n : Nat) (r1 r2 : List Bool) (bs : List Bool) (b b' : Bool) (s : State) :
    afterSteps dir n r2 (sampleStepEvents s.cfg.val dir us (BitVec.ofNat 3 (phaseAfter s.cfg.val s.phaseIdx.toNat (dir * (1 : Nat)))).toNat
        (b' :: bs))
      (afterSteps dir 1 r1 (.homeSample (rawLevel s.cfg.val b) ::
        pulseEvents s.cfg.val (phaseAfter s.cfg.val s.phaseIdx.toNat dir) us) s)
    = afterSteps dir (n + 1) r2 (sampleStepEvents s.cfg.val dir us s.phaseIdx.toNat (b :: b' :: bs)) s := by
  have e : dir + dir * (n : Int) = dir * ((n + 1 : Nat) : Int) := by push_cast; ring
  simp only [afterSteps, sampleStepEvents, stepSampleEvents, toNat_ofNat_phaseAfter, phaseAfter_phaseAfter,
    releasedBank_released, Nat.cast_one, mul_one, e, List.append_assoc, List.cons_append]

/-- Phase 2 leaves the sensor on the sample after `p2` steps (R114, R115). -/
theorem backOff_cleared (p2 k : Nat) (hk : p2 ≤ k) (s : State) (hset : Settled s) (rest : List Bool)
    (h : s.homeIn = (answersOf true p2).map (rawLevel s.cfg.val) ++ rest) :
    backOff k s = (true, afterSteps (-1) p2 rest (backOffEvents s.cfg.val s.phaseIdx.toNat (answersOf true p2)) s) := by
  induction p2 generalizing k s with
  | zero =>
    have h1 := sample_only (-1) (rapidDelayUs s.cfg.val) s hset false rest (by simpa [answersOf] using h)
    cases k <;> simp only [backOff, h1] <;> simp [backOffEvents, answersOf]
  | succ p2 ih =>
    obtain ⟨k, rfl⟩ : ∃ j, k = j + 1 := ⟨k - 1, by omega⟩
    obtain ⟨h1, h2⟩ := sample_then_step (-1) (.inr rfl) .fast s true
      ((answersOf true p2).map (rawLevel s.cfg.val) ++ rest) (by simpa [answersOf, List.replicate_succ] using h)
    obtain ⟨b', bs, hbs⟩ : ∃ b' bs, answersOf true p2 = b' :: bs := by
      cases p2 <;> simp [answersOf, List.replicate_succ]
    have hc : answersOf true (p2 + 1) = true :: answersOf true p2 := by simp [answersOf, List.replicate_succ]
    simp only [backOff, h1, if_true, h2]
    rw [ih k (by omega) _ (settled_afterSteps _ _ _ _ _) rfl]
    have e := afterSteps_after_sample_step (-1) (rapidDelayUs s.cfg.val) p2
      ((answersOf true p2).map (rawLevel s.cfg.val) ++ rest) rest bs true b' s
    rw [hc, hbs]
    rw [hbs] at e
    simp only [delayUnits, Nat.one_mul] at e ⊢
    exact congrArg (Prod.mk _) e

/-- Phase 2 exhausts its budget of `k` steps with the sensor active throughout (R115). -/
theorem backOff_exhausted (k : Nat) (s : State) (hset : Settled s) (rest : List Bool)
    (h : s.homeIn = (List.replicate (k + 1) true).map (rawLevel s.cfg.val) ++ rest) :
    backOff k s = (false, afterSteps (-1) k rest
      (backOffEvents s.cfg.val s.phaseIdx.toNat (List.replicate (k + 1) true)) s) := by
  induction k generalizing s with
  | zero =>
    have h1 := sample_only (-1) (rapidDelayUs s.cfg.val) s hset true rest (by simpa using h)
    simp only [backOff, h1]
    simp [backOffEvents]
  | succ k ih =>
    obtain ⟨h1, h2⟩ := sample_then_step (-1) (.inr rfl) .fast s true
      ((List.replicate (k + 1) true).map (rawLevel s.cfg.val) ++ rest) (by simpa [List.replicate_succ] using h)
    simp only [backOff, h1, if_true, h2]
    rw [ih _ (settled_afterSteps _ _ _ _ _) rfl]
    have e := afterSteps_after_sample_step (-1) (rapidDelayUs s.cfg.val) k
      ((List.replicate (k + 1) true).map (rawLevel s.cfg.val) ++ rest) rest (List.replicate k true) true true s
    simp only [delayUnits, Nat.one_mul] at e ⊢
    exact congrArg (Prod.mk _) e

/-- Phase 3 finds the sensor on the sample after `p3` steps (R116, R117). -/
theorem reapproach_found (p3 k : Nat) (hk : p3 ≤ k) (s : State) (hset : Settled s) (rest : List Bool)
    (h : s.homeIn = (answersOf false p3).map (rawLevel s.cfg.val) ++ rest) :
    reapproach k s = (true, afterSteps 1 p3 rest (reapproachEvents s.cfg.val s.phaseIdx.toNat (answersOf false p3)) s) := by
  induction p3 generalizing k s with
  | zero =>
    have h1 := sample_only 1 (5 * rapidDelayUs s.cfg.val) s hset true rest (by simpa [answersOf] using h)
    cases k <;> simp only [reapproach, h1] <;> simp [reapproachEvents, answersOf]
  | succ p3 ih =>
    obtain ⟨k, rfl⟩ : ∃ j, k = j + 1 := ⟨k - 1, by omega⟩
    obtain ⟨h1, h2⟩ := sample_then_step 1 (.inl rfl) .slow s false
      ((answersOf false p3).map (rawLevel s.cfg.val) ++ rest) (by simpa [answersOf, List.replicate_succ] using h)
    obtain ⟨b', bs, hbs⟩ : ∃ b' bs, answersOf false p3 = b' :: bs := by
      cases p3 <;> simp [answersOf, List.replicate_succ]
    have hc : answersOf false (p3 + 1) = false :: answersOf false p3 := by simp [answersOf, List.replicate_succ]
    simp only [reapproach, h1, Bool.false_eq_true, if_false, h2]
    rw [ih k (by omega) _ (settled_afterSteps _ _ _ _ _) rfl]
    have e := afterSteps_after_sample_step 1 (5 * rapidDelayUs s.cfg.val) p3
      ((answersOf false p3).map (rawLevel s.cfg.val) ++ rest) rest bs false b' s
    rw [hc, hbs]
    rw [hbs] at e
    simp only [delayUnits] at e ⊢
    exact congrArg (Prod.mk _) e

/-- Phase 3 exhausts its budget of `k` steps with the sensor inactive throughout (R117). -/
theorem reapproach_exhausted (k : Nat) (s : State) (hset : Settled s) (rest : List Bool)
    (h : s.homeIn = (List.replicate (k + 1) false).map (rawLevel s.cfg.val) ++ rest) :
    reapproach k s = (false, afterSteps 1 k rest
      (reapproachEvents s.cfg.val s.phaseIdx.toNat (List.replicate (k + 1) false)) s) := by
  induction k generalizing s with
  | zero =>
    have h1 := sample_only 1 (5 * rapidDelayUs s.cfg.val) s hset false rest (by simpa using h)
    simp only [reapproach, h1]
    simp [reapproachEvents]
  | succ k ih =>
    obtain ⟨h1, h2⟩ := sample_then_step 1 (.inl rfl) .slow s false
      ((List.replicate (k + 1) false).map (rawLevel s.cfg.val) ++ rest) (by simpa [List.replicate_succ] using h)
    simp only [reapproach, h1, Bool.false_eq_true, if_false, h2]
    rw [ih _ (settled_afterSteps _ _ _ _ _) rfl]
    have e := afterSteps_after_sample_step 1 (5 * rapidDelayUs s.cfg.val) k
      ((List.replicate (k + 1) false).map (rawLevel s.cfg.val) ++ rest) rest (List.replicate k false) false false s
    simp only [delayUnits] at e ⊢
    exact congrArg (Prod.mk _) e

/-! ### The phases of HOME, from the outcomes of their loops -/

theorem homePhase3_of {s u : State} {b : Bool}
    (h : reapproach (stepsPerHour s.cfg.val) (writeHState .reapproachingSlow s) = (b, u)) :
    homePhase3 s = if b then homeReached u else raiseHomeFailure .phase3 u := by
  unfold homePhase3; rw [h]

theorem homePhase2_of {s u : State} {b : Bool}
    (h : backOff (stepsPerHour s.cfg.val) (writeHState .backingOff s) = (b, u)) :
    homePhase2 s = if b then homePhase3 u else raiseHomeFailure .phase2 u := by
  unfold homePhase2; rw [h]

theorem homeBody_of {s u : State} {b : Bool}
    (h : seekHome (stepsPerCycle s.cfg.val + stepsPerHour s.cfg.val) (writeHState .seekingHomeForward s) = (b, u)) :
    homeBody s = if b then homePhase2 u else raiseHomeFailure .phase1 u := by
  unfold homeBody; rw [h]

theorem settled_writeHState (h : HState) {s : State} (hs : Settled s) : Settled (writeHState h s) := hs

end Sys2Proof.Machine
end

