-- ==== Sys2Proof/Laws/Effects.lean ====
section
/-! SUPPORT. What every command may do to the outputs, the trace and the inputs, said once (`exec_emits`): the events it adds
are those of the Stepper Driver and of samples, the bank follows them, and samples fall where the outputs are released
(20_memory.md R42 to R44, 41_home_sensor_port.md R93). -/

namespace Sys2Proof.Machine

/-- An event that the Stepper Driver or a sample makes (20_memory.md R42, R43). -/
def Driven (p : Params) (e : Event) : Prop :=
  match e with
  | .set m => m ≠ 0#32 ∧ m &&& ~~~(allMask p) = 0#32 ∧ ∃ k < phaseCount p, m = pinMask p (phasePattern p k)
  | .clr m => m = allMask p
  | .delay _ => True
  | .homeSample _ => True
  | .buttonSample _ => True

/-- Every sample of the trace falls where the phase outputs are deasserted (R93). -/
def SamplesReleased (p : Params) (bank : Bank) (ev : List Event) : Prop :=
  ∀ before after e, ev = before ++ e :: after → isSample e = true → bankAfter before bank &&& allMask p = 0#32

theorem bankAfter_append (a b : List Event) (bank : Bank) : bankAfter (a ++ b) bank = bankAfter b (bankAfter a bank) := by
  induction a generalizing bank with
  | nil => rfl
  | cons e rest ih => cases e <;> simp [bankAfter, ih]

theorem samplesReleased_append (p : Params) (bank : Bank) (a b : List Event) (ha : SamplesReleased p bank a)
    (hb : SamplesReleased p (bankAfter a bank) b) : SamplesReleased p bank (a ++ b) := by
  intro before after e h hs
  rcases List.append_eq_append_iff.mp h with ⟨c, h1, h2⟩ | ⟨c, h1, h2⟩
  · rw [h1, bankAfter_append]
    exact hb c after e h2 hs
  · cases c with
    | nil =>
      simp only [List.append_nil] at h1
      rw [← h1]
      have := hb [] after e (by simpa using h2.symm) hs
      simpa [bankAfter] using this
    | cons x rest =>
      simp only [List.cons_append, List.cons.injEq] at h2
      obtain ⟨rfl, h2⟩ := h2
      exact ha before rest e h1 hs

theorem samplesReleased_none (p : Params) (bank : Bank) (ev : List Event) (h : ∀ e ∈ ev, isSample e = false) :
    SamplesReleased p bank ev := by
  intro before after e he hs
  have := h e (by rw [he]; simp)
  simp [this] at hs

/-! ### The masks of the phase table -/

theorem phasePattern_ne_zero (p : Params) (k : Nat) (hk : k < phaseCount p) : phasePattern p k ≠ 0#4 := by
  unfold phasePattern phaseTable
  have h8 : ∀ j < 8, halfStepTable.getD j 0#4 ≠ 0#4 := by decide
  have h4 : ∀ j < 4, fullStepTable.getD j 0#4 ≠ 0#4 := by decide
  cases hh : p.halfStep <;> simp only [phaseCount, hh, Bool.false_eq_true, if_false, if_true] at hk ⊢
  · exact h4 _ (by split <;> omega)
  · exact h8 _ (by split <;> omega)

theorem getLsbD_pinBit (pat : Pattern) (k : Nat) (pin : Fin 32) (b : Nat) :
    (pinBit pat k pin).getLsbD b = (pat.getLsbD k && decide (b = pin.val)) := by
  unfold pinBit
  have := pin.isLt
  cases hb : pat.getLsbD k
  · simp
  · simp only [if_true, BitVec.getLsbD_shiftLeft, BitVec.getLsbD_one, Bool.true_and]
    by_cases h : b = pin.val
    · subst h; simp
    · simp only [h, decide_false]
      by_cases h2 : b < pin.val
      · simp [h2]
      · simp [show ¬ b - pin.val = 0 by omega]

theorem pinMask_ne_zero (p : Params) (pat : Pattern) (h : pat ≠ 0#4) : pinMask p pat ≠ 0#32 := by
  intro h0
  apply h
  have e (b : Nat) := congrArg (fun x => x.getLsbD b) h0
  simp only [pinMask, BitVec.getLsbD_or, getLsbD_pinBit, BitVec.getLsbD_zero, Bool.or_eq_false_iff] at e
  have e0 := (e p.pin0.val).1.1.1
  have e1 := (e p.pin1.val).1.1.2
  have e2 := (e p.pin2.val).1.2
  have e3 := (e p.pin3.val).2
  simp only [decide_true, Bool.and_true] at e0 e1 e2 e3
  apply BitVec.eq_of_getLsbD_eq
  intro i hi
  have : i = 0 ∨ i = 1 ∨ i = 2 ∨ i = 3 := by omega
  rcases this with rfl | rfl | rfl | rfl <;> simp_all

/-! ### The events of a move -/

theorem bankAfter_delayEvents (d : Nat) (bank : Bank) : bankAfter (delayEvents d) bank = bank := by
  unfold delayEvents; split <;> rfl

theorem bankAfter_pulseEvents (p : Params) (i us : Nat) (bank : Bank) :
    bankAfter (pulseEvents p i us) bank = releasedBank p bank := by
  rw [← set_then_clear p bank (phasePattern p i)]
  simp [pulseEvents, bankAfter, bankAfter_append, bankAfter_delayEvents]

theorem bankAfter_flatMap_pulses (p : Params) (f g : Nat → Nat) (n : Nat) (bank : Bank) :
    bankAfter ((List.range (n + 1)).flatMap fun j => pulseEvents p (f j) (g j)) bank = releasedBank p bank := by
  induction n generalizing f g bank with
  | zero => simp [bankAfter_pulseEvents]
  | succ n ih =>
    rw [List.range_succ_eq_map, List.flatMap_cons, List.flatMap_map, bankAfter_append, bankAfter_pulseEvents, ih,
      releasedBank_released]

theorem bankAfter_moveEvents (p : Params) (units : Nat → Nat → Nat) (start : Nat) (steps : Int) (bank : Bank) :
    bankAfter (moveEvents p units start steps) bank = releasedBank p bank := by
  unfold moveEvents
  split
  · rfl
  · obtain ⟨k, hk⟩ : ∃ k, steps.natAbs = k + 1 := ⟨steps.natAbs - 1, by omega⟩
    rw [hk, bankAfter_flatMap_pulses]

theorem driven_delayEvents (p : Params) (d : Nat) : ∀ e ∈ delayEvents d, Driven p e ∧ isSample e = false := by
  unfold delayEvents; split <;> simp [Driven, isSample]

theorem driven_pulseEvents (p : Params) (i us : Nat) (hi : i < phaseCount p) :
    ∀ e ∈ pulseEvents p i us, Driven p e ∧ isSample e = false := by
  intro e he
  simp only [pulseEvents, List.mem_cons, List.mem_append, List.not_mem_nil, or_false] at he
  rcases he with rfl | he | rfl
  · exact ⟨⟨pinMask_ne_zero _ _ (phasePattern_ne_zero p i hi), pinMask_subset _ _, i, hi, rfl⟩, rfl⟩
  · exact driven_delayEvents p us e he
  · exact ⟨rfl, rfl⟩

theorem driven_moveEvents (p : Params) (units : Nat → Nat → Nat) (start : Nat) (steps : Int) :
    ∀ e ∈ moveEvents p units start steps, Driven p e ∧ isSample e = false := by
  intro e he
  unfold moveEvents at he
  split at he
  · simp only [List.mem_cons, List.not_mem_nil, or_false] at he
    subst he; exact ⟨rfl, rfl⟩
  · obtain ⟨j, -, hj⟩ := List.mem_flatMap.mp he
    exact driven_pulseEvents p _ _ (phaseAfter_lt _ _ _) e hj

theorem releasedBank_and (p : Params) (bank : Bank) : releasedBank p bank &&& allMask p = 0#32 := by
  unfold releasedBank; ext i hi; simp

theorem releasedBank_other (p : Params) (bank : Bank) : releasedBank p bank &&& ~~~(allMask p) = bank &&& ~~~(allMask p) := by
  unfold releasedBank; ext i hi; simp

/-! ### What a command may do -/

/-- `t` comes from `s` by the events `ev`: the trace grows by them, the bank follows them, they are the CORE's own, and the
host's words, the reset input and the configuration are untouched. -/
structure Emits (s t : State) (ev : List Event) : Prop where
  cfg : t.cfg = s.cfg
  resetPin : t.resetPin = s.resetPin
  resetAfter : t.resetAfter = s.resetAfter
  presented : t.presented = s.presented
  trace : t.trace = s.trace ++ ev
  out : t.out = bankAfter ev s.out
  driven : ∀ e ∈ ev, Driven s.cfg.val e
  other : t.out &&& ~~~(allMask s.cfg.val) = s.out &&& ~~~(allMask s.cfg.val)
  released : OutputsReleased s → OutputsReleased t ∧ SamplesReleased s.cfg.val s.out ev

theorem emits_trans {s t u : State} {a b : List Event} (h1 : Emits s t a) (h2 : Emits t u b) : Emits s u (a ++ b) where
  cfg := h2.cfg.trans h1.cfg
  resetPin := h2.resetPin.trans h1.resetPin
  resetAfter := h2.resetAfter.trans h1.resetAfter
  presented := h2.presented.trans h1.presented
  trace := by rw [h2.trace, h1.trace, List.append_assoc]
  out := by rw [h2.out, h1.out, bankAfter_append]
  driven := by
    intro e he
    rcases List.mem_append.mp he with he | he
    · exact h1.driven e he
    · have := h2.driven e he
      rwa [h1.cfg] at this
  other := by
    have := h2.other
    rw [h1.cfg, h1.other] at this
    exact this
  released := by
    intro h
    obtain ⟨h3, h4⟩ := h1.released h
    obtain ⟨h5, h6⟩ := h2.released h3
    rw [h1.cfg, h1.out] at h6
    exact ⟨h5, samplesReleased_append _ _ _ _ h4 h6⟩

/-- A change of registers only makes no event. -/
theorem emits_silent {s t : State} (h1 : t.cfg = s.cfg) (h2 : t.resetPin = s.resetPin)
    (h2' : t.resetAfter = s.resetAfter) (h3 : t.presented = s.presented)
    (h4 : t.trace = s.trace) (h5 : t.out = s.out) : Emits s t [] where
  cfg := h1
  resetPin := h2
  resetAfter := h2'
  presented := h3
  trace := by simp [h4]
  out := h5
  driven := by simp
  other := by rw [h5]
  released := by
    intro h
    refine ⟨by unfold OutputsReleased at *; rw [h5, h1]; exact h, samplesReleased_none _ _ _ (by simp)⟩

theorem stepMotor_emits (steps : Int) (speed : Speed) (s : State) :
    Emits s (stepMotor steps speed s) (moveEvents s.cfg.val (delayUnits speed) s.phaseIdx.toNat steps) := by
  rw [stepMotor_eq]
  exact {
    cfg := rfl
    resetPin := rfl
    resetAfter := rfl
    presented := rfl
    trace := rfl
    out := (bankAfter_moveEvents _ _ _ _ _).symm
    driven := fun e he => (driven_moveEvents _ _ _ _ e he).1
    other := releasedBank_other _ _
    released := fun _ => ⟨releasedBank_and _ _, samplesReleased_none _ _ _ fun e he => (driven_moveEvents _ _ _ _ e he).2⟩ }

/-- A sample at a point where the outputs are released. -/
theorem samplesReleased_one (p : Params) (bank : Bank) (e : Event) (h : bank &&& allMask p = 0#32) :
    SamplesReleased p bank [e] := by
  intro before after e' he _
  cases before with
  | nil => exact h
  | cons x rest => simp at he

theorem readHomeRaw_emits (s : State) : Emits s (readHomeRaw s) [.homeSample (homeRaw s)] where
  cfg := rfl
  resetPin := rfl
  resetAfter := rfl
  presented := rfl
  trace := rfl
  out := rfl
  driven := by simp [Driven]
  other := rfl
  released := fun h => ⟨h, samplesReleased_one _ _ _ h⟩

theorem readButton_emits (s : State) : Emits s (readButton s) [.buttonSample (buttonLevel s)] where
  cfg := rfl
  resetPin := rfl
  resetAfter := rfl
  presented := rfl
  trace := rfl
  out := rfl
  driven := by simp [Driven]
  other := rfl
  released := fun h => ⟨h, samplesReleased_one _ _ _ h⟩

/-- A dwell right after a button sample (44_calibration.md R130). -/
theorem delay_emits (d : Nat) (s : State) (b : Bool) (t : List Event) (h : s.trace = t ++ [.buttonSample b]) :
    Emits s (delay d s) (delayEvents d) where
  cfg := rfl
  resetPin := rfl
  resetAfter := rfl
  presented := rfl
  trace := by rw [delay_trace, h, delayedTrace_after_button]
  out := (bankAfter_delayEvents d s.out).symm
  driven := fun e he => (driven_delayEvents _ d e he).1
  other := rfl
  released := fun h => ⟨h, samplesReleased_none _ _ _ fun e he => (driven_delayEvents s.cfg.val d e he).2⟩

theorem seekHome_emits (k : Nat) (s : State) : ∃ ev, Emits s (seekHome k s).2 ev := by
  induction k generalizing s with
  | zero => exact ⟨[], emits_silent rfl rfl rfl rfl rfl rfl⟩
  | succ k ih =>
    have h := emits_trans (stepMotor_emits 1 .fast s) (readHomeRaw_emits _)
    simp only [seekHome]
    by_cases hc : (sampleHome (stepMotor 1 .fast s)).1 = true
    · rw [if_pos hc]; exact ⟨_, h⟩
    · rw [if_neg hc]
      obtain ⟨ev, h2⟩ := ih (readHomeRaw (stepMotor 1 .fast s))
      exact ⟨_, emits_trans h h2⟩

theorem backOff_emits (k : Nat) (s : State) : ∃ ev, Emits s (backOff k s).2 ev := by
  induction k generalizing s with
  | zero => exact ⟨_, readHomeRaw_emits s⟩
  | succ k ih =>
    simp only [backOff]
    by_cases hc : (sampleHome s).1 = true
    · rw [if_pos hc]
      obtain ⟨ev, h⟩ := ih (stepMotor (-1) .fast (readHomeRaw s))
      exact ⟨_, emits_trans (emits_trans (readHomeRaw_emits s) (stepMotor_emits _ _ _)) h⟩
    · rw [if_neg hc]; exact ⟨_, readHomeRaw_emits s⟩

theorem reapproach_emits (k : Nat) (s : State) : ∃ ev, Emits s (reapproach k s).2 ev := by
  induction k generalizing s with
  | zero => exact ⟨_, readHomeRaw_emits s⟩
  | succ k ih =>
    simp only [reapproach]
    by_cases hc : (sampleHome s).1 = true
    · rw [if_pos hc]; exact ⟨_, readHomeRaw_emits s⟩
    · rw [if_neg hc]
      obtain ⟨ev, h⟩ := ih (stepMotor 1 .slow (readHomeRaw s))
      exact ⟨_, emits_trans (emits_trans (readHomeRaw_emits s) (stepMotor_emits _ _ _)) h⟩

theorem homePhase3_emits (s : State) : ∃ ev, Emits s (homePhase3 s) ev := by
  obtain ⟨ev, h⟩ := reapproach_emits (stepsPerHour s.cfg.val) (writeHState .reapproachingSlow s)
  have h0 : Emits s (writeHState .reapproachingSlow s) [] := emits_silent rfl rfl rfl rfl rfl rfl
  simp only [homePhase3]
  split
  · exact ⟨_, emits_trans (emits_trans h0 h) (emits_silent rfl rfl rfl rfl rfl rfl)⟩
  · exact ⟨_, emits_trans (emits_trans h0 h) (emits_silent rfl rfl rfl rfl rfl rfl)⟩

theorem homePhase2_emits (s : State) : ∃ ev, Emits s (homePhase2 s) ev := by
  obtain ⟨ev, h⟩ := backOff_emits (stepsPerHour s.cfg.val) (writeHState .backingOff s)
  have h0 : Emits s (writeHState .backingOff s) [] := emits_silent rfl rfl rfl rfl rfl rfl
  simp only [homePhase2]
  split
  · obtain ⟨ev', h'⟩ := homePhase3_emits (backOff (stepsPerHour s.cfg.val) (writeHState .backingOff s)).2
    exact ⟨_, emits_trans (emits_trans h0 h) h'⟩
  · exact ⟨_, emits_trans (emits_trans h0 h) (emits_silent rfl rfl rfl rfl rfl rfl)⟩

/-- HOME, up to its response. -/
theorem homeBody_emits (s : State) : ∃ ev, Emits s (homeBody s) ev := by
  obtain ⟨ev, h⟩ := seekHome_emits (stepsPerCycle s.cfg.val + stepsPerHour s.cfg.val) (writeHState .seekingHomeForward s)
  have h0 : Emits s (writeHState .seekingHomeForward s) [] := emits_silent rfl rfl rfl rfl rfl rfl
  simp only [homeBody]
  split
  · obtain ⟨ev', h'⟩ := homePhase2_emits
      (seekHome (stepsPerCycle s.cfg.val + stepsPerHour s.cfg.val) (writeHState .seekingHomeForward s)).2
    exact ⟨_, emits_trans (emits_trans h0 h) h'⟩
  · exact ⟨_, emits_trans (emits_trans h0 h) (emits_silent rfl rfl rfl rfl rfl rfl)⟩

/-- An abort check and what follows it when the button is not pressed (44_calibration.md R131). -/
theorem abortCheck_emits (s : State) (goOn : State → State)
    (h : ∀ u, u.trace = s.trace ++ [.buttonSample (buttonLevel s)] → ∃ ev, Emits u (goOn u) ev) :
    ∃ ev, Emits s (abortCheck s goOn) ev := by
  simp only [abortCheck]
  by_cases hc : (sampleButton s).1 = true
  · rw [if_pos hc]; exact ⟨_, emits_trans (readButton_emits s) (emits_silent rfl rfl rfl rfl rfl rfl)⟩
  · rw [if_neg hc]
    obtain ⟨ev, h2⟩ := h (readButton s) rfl
    exact ⟨_, emits_trans (readButton_emits s) h2⟩

theorem calibratePass_emits (s : State) : ∃ ev, Emits s (calibratePass s) ev := by
  obtain ⟨ev, h⟩ := homeBody_emits s
  simp only [calibratePass]
  split
  · exact ⟨_, emits_trans h (emits_silent rfl rfl rfl rfl rfl rfl)⟩
  · have h1 : ∃ ev, Emits (homeBody s) (abortCheck (homeBody s) calibrateLongDwell) ev := by
      refine abortCheck_emits _ _ fun u hu => ?_
      obtain ⟨ev2, h2⟩ := abortCheck_emits (delay u.cfg.val.calDwellLongUs u) calibrateBackMove fun v _ => by
        obtain ⟨ev3, h3⟩ := abortCheck_emits (stepMotor (-(stepsPerHour v.cfg.val : Int)) .fast v) calibrateShortDwell
          fun w hw => by
            obtain ⟨ev4, h4⟩ := abortCheck_emits (delay w.cfg.val.calDwellShortUs w) stayInFlight
              fun x _ => ⟨[], emits_silent rfl rfl rfl rfl rfl rfl⟩
            exact ⟨_, emits_trans (delay_emits _ w _ _ hw) h4⟩
        exact ⟨_, emits_trans (stepMotor_emits _ _ v) h3⟩
      exact ⟨_, emits_trans (delay_emits _ u _ _ hu) h2⟩
    obtain ⟨ev1, h1⟩ := h1
    exact ⟨_, emits_trans h h1⟩

/-- Every command: what it may do to the outputs, the trace and the outside world's side of the ports. -/
theorem exec_emits (i : Instr) (s t : State) (h : exec i s = .next t) : ∃ ev, Emits s t ev := by
  have quiet : ∀ (w : Response) (u : State), Emits u (respond w u) [] := fun w u => emits_silent rfl rfl rfl rfl rfl rfl
  cases i with
  | stepSlow n => cases h; exact ⟨_, emits_trans (stepMotor_emits _ _ _) (quiet _ _)⟩
  | stepAuto n => cases h; exact ⟨_, emits_trans (stepMotor_emits _ _ _) (quiet _ _)⟩
  | stepFast n => cases h; exact ⟨_, emits_trans (stepMotor_emits _ _ _) (quiet _ _)⟩
  | update hour minute =>
    simp only [exec, execUpdate, Host.Outcome.next.injEq] at h
    subst h
    split
    · simp only [updateBody]
      split
      · exact ⟨_, quiet _ _⟩
      · exact ⟨_, emits_trans (emits_trans (stepMotor_emits _ .auto s) (u := moveToMinute _ s)
          (emits_silent rfl rfl rfl rfl rfl rfl)) (quiet _ _)⟩
    · exact ⟨_, quiet _ _⟩
  | home =>
    cases h
    obtain ⟨ev, h⟩ := homeBody_emits s
    exact ⟨_, emits_trans h (quiet _ _)⟩
  | calibrate => cases h; exact calibratePass_emits s
  | isHome => cases h; exact ⟨_, emits_trans (readHomeRaw_emits s) (quiet _ _)⟩
  | isButton => cases h; exact ⟨_, emits_trans (readButton_emits s) (quiet _ _)⟩

end Sys2Proof.Machine
end

