-- ==== Sys2Proof/Laws/StatusPort.lean ====
section
/-! SUPPORT. The record of the status port: what is left of it at an earlier event, and what its last entry shows
(60_exceptions.md R155; log 3). -/

namespace Sys2Proof.Machine

@[simp] theorem shownBy_nil (k : Nat) : shownBy k [] = [] := rfl

theorem shownBy_append (k : Nat) (a b : List StatusShown) : shownBy k (a ++ b) = shownBy k a ++ shownBy k b :=
  List.filter_append a b

theorem shownBy_one (k : Nat) (e : StatusShown) : shownBy k [e] = if e.made ≤ k then [e] else [] := by
  by_cases h : e.made ≤ k <;> simp [shownBy, h]

/-- Until `j` events were made, a record cut at `k ≥ j` events is the whole one. -/
theorem shownBy_shownBy {j k : Nat} (h : j ≤ k) (seen : List StatusShown) :
    shownBy j (shownBy k seen) = shownBy j seen := by
  unfold shownBy
  rw [List.filter_filter]
  congr 1
  funext e
  by_cases he : e.made ≤ j
  · simp [he, Nat.le_trans he h]
  · simp [he]

/-- An event that never came has nothing on the port. -/
theorem statusDuring_later {s : State} {k : Nat} (h : s.trace.length < k) : statusDuring s k = none := by
  unfold statusDuring; rw [if_neg (Nat.not_le.mpr h)]

/-- The last entry made by then is what the port shows, whatever was shown before it. -/
theorem statusDuring_of_last {s : State} {k : Nat} {before after : List StatusShown} {e : StatusShown}
    (hs : s.statusSeen = before ++ e :: after) (hk : k ≤ s.trace.length) (he : e.made ≤ k) (ha : ∀ x ∈ after, k < x.made) :
    statusDuring s k = some { busy := 1#1, hstate := hstateCode e.hstate, status := e.status } := by
  have h0 : shownBy k after = [] := by
    simp only [shownBy, List.filter_eq_nil_iff, decide_eq_true_eq]
    exact fun x hx => Nat.not_le.mpr (ha x hx)
  have h1 : shownBy k s.statusSeen = shownBy k before ++ [e] := by
    rw [hs, ← List.singleton_append, shownBy_append, shownBy_append, h0, shownBy_one, if_pos he, List.append_nil]
  unfold statusDuring
  rw [if_pos hk, h1, List.getLast?_append]
  rfl

end Sys2Proof.Machine
end

