-- ==== Sys2Proof/Laws/Outcomes.lean ====
section
/-! SUPPORT. The outcomes of HOME, said once (`homeBody_outcome`): whatever the environment answers, one of four paths, the
registers each leaves, and the motor and trace as the loops left them (43_homing.md R111 to R119). -/

namespace Sys2Proof.Machine

/-- `t` is `s` but for what moving the motor and sampling the home input change; the trace only grows. -/
def Moved (s t : State) : Prop :=
  ∃ idx out home draws ev,
    t = { s with phaseIdx := idx, out := out, homeIn := home, draws := draws, trace := s.trace ++ ev }

theorem moved_refl (s : State) : Moved s s := ⟨s.phaseIdx, s.out, s.homeIn, s.draws, [], by simp⟩

theorem moved_trans {s t u : State} (h1 : Moved s t) (h2 : Moved t u) : Moved s u := by
  obtain ⟨_, _, _, _, e1, rfl⟩ := h1
  obtain ⟨_, _, _, _, e2, rfl⟩ := h2
  exact ⟨_, _, _, _, e1 ++ e2, by rw [← List.append_assoc]⟩

theorem moved_trace {s t : State} (h : Moved s t) : s.trace.length ≤ t.trace.length := by
  obtain ⟨_, _, _, _, _, rfl⟩ := h
  simp

theorem stepMotor_moved (steps : Int) (speed : Speed) (s : State) : Moved s (stepMotor steps speed s) := by
  rw [stepMotor_eq]; exact ⟨_, _, s.homeIn, s.draws, _, rfl⟩

theorem sampleHome_moved (s : State) : Moved s (sampleHome s).2 := ⟨s.phaseIdx, s.out, _, _, _, rfl⟩

/-- The phase index in range and the outputs those of `bank` released. -/
def RestsOn (p : Params) (bank : Bank) (s : State) : Prop :=
  s.cfg.val = p ∧ s.phaseIdx.toNat < phaseCount p ∧ s.out = releasedBank p bank

theorem stepMotor_one_rests (dir : Int) (hd : dir = 1 ∨ dir = -1) (speed : Speed) (s : State) :
    RestsOn s.cfg.val s.out (stepMotor dir speed s) := by
  rw [stepMotor_one dir hd]
  refine ⟨rfl, ?_, rfl⟩
  simp only [toNat_ofNat_phaseAfter]
  exact phaseAfter_lt _ _ _

theorem stepMotor_one_keeps (p : Params) (bank : Bank) (dir : Int) (hd : dir = 1 ∨ dir = -1) (speed : Speed) (s : State)
    (h : RestsOn p bank s) : RestsOn p bank (stepMotor dir speed s) := by
  obtain ⟨rfl, -, h3⟩ := h
  have := stepMotor_one_rests dir hd speed s
  rwa [h3, RestsOn, releasedBank_released] at this

theorem sampleHome_keeps (p : Params) (bank : Bank) (s : State) (h : RestsOn p bank s) : RestsOn p bank (sampleHome s).2 := h

theorem seekHome_moved (k : Nat) (s : State) : Moved s (seekHome k s).2 := by
  induction k generalizing s with
  | zero => exact moved_refl s
  | succ k ih =>
    simp only [seekHome]
    have h := moved_trans (stepMotor_moved 1 .fast s) (sampleHome_moved _)
    by_cases hc : (sampleHome (stepMotor 1 .fast s)).1 = true
    · rw [if_pos hc]; exact h
    · rw [if_neg hc]; exact moved_trans h (ih _)

theorem seekHome_rests (k : Nat) (s : State) : RestsOn s.cfg.val s.out (seekHome (k + 1) s).2 := by
  have key : ∀ (k : Nat) (p : Params) (bank : Bank) (s : State), RestsOn p bank s → RestsOn p bank (seekHome k s).2 := by
    intro k
    induction k with
    | zero => intro p bank s h; exact h
    | succ k ih =>
      intro p bank s h
      have h2 := sampleHome_keeps p bank _ (stepMotor_one_keeps p bank 1 (.inl rfl) .fast s h)
      simp only [seekHome]
      by_cases hc : (sampleHome (stepMotor 1 .fast s)).1 = true
      · rw [if_pos hc]; exact h2
      · rw [if_neg hc]; exact ih p bank _ h2
  have h := sampleHome_keeps _ _ _ (stepMotor_one_rests 1 (.inl rfl) .fast s)
  simp only [seekHome]
  by_cases hc : (sampleHome (stepMotor 1 .fast s)).1 = true
  · rw [if_pos hc]; exact h
  · rw [if_neg hc]; exact key k _ _ _ h

theorem backOff_moved (k : Nat) (p : Params) (bank : Bank) (s : State) (hr : RestsOn p bank s) :
    Moved s (backOff k s).2 ∧ RestsOn p bank (backOff k s).2 := by
  induction k generalizing s with
  | zero => exact ⟨sampleHome_moved s, hr⟩
  | succ k ih =>
    simp only [backOff]
    by_cases hc : (sampleHome s).1 = true
    · rw [if_pos hc]
      obtain ⟨h1, h2⟩ := ih _ (stepMotor_one_keeps p bank (-1) (.inr rfl) .fast _ (sampleHome_keeps p bank s hr))
      exact ⟨moved_trans (moved_trans (sampleHome_moved s) (stepMotor_moved _ _ _)) h1, h2⟩
    · rw [if_neg hc]; exact ⟨sampleHome_moved s, hr⟩

theorem reapproach_moved (k : Nat) (p : Params) (bank : Bank) (s : State) (hr : RestsOn p bank s) :
    Moved s (reapproach k s).2 ∧ RestsOn p bank (reapproach k s).2 := by
  induction k generalizing s with
  | zero => exact ⟨sampleHome_moved s, hr⟩
  | succ k ih =>
    simp only [reapproach]
    by_cases hc : (sampleHome s).1 = true
    · rw [if_pos hc]; exact ⟨sampleHome_moved s, hr⟩
    · rw [if_neg hc]
      obtain ⟨h1, h2⟩ := ih _ (stepMotor_one_keeps p bank 1 (.inl rfl) .slow _ (sampleHome_keeps p bank s hr))
      exact ⟨moved_trans (moved_trans (sampleHome_moved s) (stepMotor_moved _ _ _)) h1, h2⟩

/-! ### Every phase of HOME makes an event -/

theorem sampleHome_trace (s : State) : s.trace.length < (sampleHome s).2.trace.length := by simp [sampleHome]

theorem seekHome_trace (k : Nat) (s : State) : s.trace.length < (seekHome (k + 1) s).2.trace.length := by
  have h := Nat.lt_of_le_of_lt (moved_trace (stepMotor_moved 1 .fast s)) (sampleHome_trace _)
  simp only [seekHome]
  split
  · exact h
  · exact Nat.lt_of_lt_of_le h (moved_trace (seekHome_moved k _))

theorem backOff_trace (k : Nat) (p : Params) (bank : Bank) (s : State) (hr : RestsOn p bank s) :
    s.trace.length < (backOff k s).2.trace.length := by
  cases k with
  | zero => exact sampleHome_trace s
  | succ k =>
    simp only [backOff]
    split
    · have hr' := stepMotor_one_keeps p bank (-1) (.inr rfl) .fast _ (sampleHome_keeps p bank s hr)
      exact Nat.lt_of_lt_of_le (sampleHome_trace s)
        (moved_trace (moved_trans (stepMotor_moved _ _ _) (backOff_moved k p bank _ hr').1))
    · exact sampleHome_trace s

theorem reapproach_trace (k : Nat) (p : Params) (bank : Bank) (s : State) (hr : RestsOn p bank s) :
    s.trace.length < (reapproach k s).2.trace.length := by
  cases k with
  | zero => exact sampleHome_trace s
  | succ k =>
    simp only [reapproach]
    split
    · exact sampleHome_trace s
    · have hr' := stepMotor_one_keeps p bank 1 (.inl rfl) .slow _ (sampleHome_keeps p bank s hr)
      exact Nat.lt_of_lt_of_le (sampleHome_trace s)
        (moved_trace (moved_trans (stepMotor_moved _ _ _) (reapproach_moved k p bank _ hr').1))

/-! ### The contract -/

theorem stepsPerHour_pos (c : Configuration) : 0 < stepsPerHour c.val := c.property.2.2.2.2.2.2.1

theorem cycleHours_pos (c : Configuration) : 0 < c.val.cycleHours := c.property.2.2.2.2.1

theorem cycleHours_le (c : Configuration) : c.val.cycleHours ≤ 24 := c.property.2.2.2.2.2.1

theorem stepsPerCycle_pos (c : Configuration) : 0 < stepsPerCycle c.val :=
  Nat.mul_pos (stepsPerHour_pos c) (cycleHours_pos c)

theorem stepsPerCycle_lt (c : Configuration) : stepsPerCycle c.val < 2 ^ 31 := by
  have := c.property.2.2.2.2.2.2.2.1
  have := stepsPerHour_pos c
  omega

theorem minutesPerCycle_pos (c : Configuration) : 0 < minutesPerCycle c.val :=
  Nat.mul_pos (cycleHours_pos c) (by omega)

theorem minutesPerCycle_lt (c : Configuration) : minutesPerCycle c.val < 2 ^ 11 := by
  have := cycleHours_le c
  unfold minutesPerCycle
  omega

/-! ### The four outcomes -/

/-- The entries that the writes of the transient states `path` leave, each when as many events were made as `marks` says. -/
def transientsShown (code : BitVec 2) (marks : List Nat) (path : List HState) : List StatusShown :=
  List.zipWith (fun m x => ⟨m, x, code⟩) marks path

theorem transientsShown_hstate (code : BitVec 2) (marks : List Nat) (path : List HState) (h : marks.length = path.length) :
    (transientsShown code marks path).map StatusShown.hstate = path := by
  induction path generalizing marks with
  | nil => simp [transientsShown]
  | cons x rest ih =>
    cases marks with
    | nil => simp at h
    | cons m ms => simpa [transientsShown] using ih ms (by simpa using h)

/-- What HOME, or the rest of one, leaves when it ends in `h` after the transient states `path`: on success the position
state is zeroed, on failure it is untouched (R118, R119); the motor rests, with the outputs of `bank` released; the status
port has shown the transient states one after the other, each for at least one event, with the old `STATUS`, and shows the
result after the last event (60_exceptions.md R155). -/
def HomeLeaves (p : Params) (bank : Bank) (s t : State) (h : HState) (path : List HState) : Prop :=
  ∃ u marks, Moved s u ∧ RestsOn p bank u ∧
    marks.length = path.length ∧ marks.head? = some s.trace.length ∧ marks.Pairwise (· < ·) ∧
    (∀ m ∈ marks, s.trace.length ≤ m ∧ m < u.trace.length) ∧
    t = { u with
      hstate := h
      status := statusOfState h
      statusSeen := s.statusSeen ++ transientsShown s.status marks path ++ [⟨u.trace.length, h, statusOfState h⟩]
      lastPosition := if h = .homed then 0#32 else s.lastPosition
      lastMinutes := if h = .homed then 0#11 else s.lastMinutes }

/-- A phase that succeeded comes before the rest of the path. -/
theorem homeLeaves_after {p : Params} {bank : Bank} {s s1 t : State} {x h : HState} {path : List HState}
    (hm : Moved (writeHState x s) s1) (hlt : s.trace.length < s1.trace.length) (hl : HomeLeaves p bank s1 t h path) :
    HomeLeaves p bank s t h (x :: path) := by
  obtain ⟨_, _, _, _, e1, rfl⟩ := hm
  obtain ⟨u, marks, ⟨i, o, hi, d, e2, rfl⟩, hr, h1, -, h3, h4, rfl⟩ := hl
  simp only [writeHState_trace, List.append_assoc] at hlt h4
  have h5 (m : Nat) (hm : m ∈ marks) : s.trace.length < m := Nat.lt_of_lt_of_le hlt (h4 m hm).1
  refine ⟨{ s with phaseIdx := i, out := o, homeIn := hi, draws := d, trace := s.trace ++ (e1 ++ e2) },
    s.trace.length :: marks, ⟨_, _, _, _, _, rfl⟩, hr, by simp [h1], rfl, List.pairwise_cons.mpr ⟨h5, h3⟩, ?_, ?_⟩
  · intro m hm
    rcases List.mem_cons.mp hm with rfl | hm
    · exact ⟨Nat.le_refl _, Nat.lt_of_lt_of_le hlt (by simp)⟩
    · exact ⟨Nat.le_of_lt (h5 m hm), (h4 m hm).2⟩
  · simp [writeHState, showStatus, transientsShown]

/-- A phase that failed ends the path (60_exceptions.md R144). -/
theorem homeLeaves_failure {p : Params} {bank : Bank} {s s1 : State} {x : HState} (k : HomeFailure)
    (hm : Moved (writeHState x s) s1) (hlt : s.trace.length < s1.trace.length) (hr : RestsOn p bank s1) :
    HomeLeaves p bank s (raiseHomeFailure k s1) (failureState k) [x] := by
  obtain ⟨i, o, hi, d, ev, rfl⟩ := hm
  refine ⟨{ s with phaseIdx := i, out := o, homeIn := hi, draws := d, trace := s.trace ++ ev }, [s.trace.length],
    ⟨_, _, _, _, _, rfl⟩, hr, rfl, rfl, by simp, by simpa using hlt, ?_⟩
  cases k <;> simp [raiseHomeFailure, showStatus, writeHState, failureCode, failureState, statusOfState, transientsShown]

/-- Success ends the path (R118). -/
theorem homeLeaves_success {p : Params} {bank : Bank} {s s1 : State} {x : HState}
    (hm : Moved (writeHState x s) s1) (hlt : s.trace.length < s1.trace.length) (hr : RestsOn p bank s1) :
    HomeLeaves p bank s (homeReached s1) .homed [x] := by
  obtain ⟨i, o, hi, d, ev, rfl⟩ := hm
  refine ⟨{ s with phaseIdx := i, out := o, homeIn := hi, draws := d, trace := s.trace ++ ev }, [s.trace.length],
    ⟨_, _, _, _, _, rfl⟩, hr, rfl, rfl, by simp, by simpa using hlt, ?_⟩
  simp [homeReached, writePosition, showStatus, writeHState, statusOfState, transientsShown]

theorem homePhase3_outcome (p : Params) (bank : Bank) (s : State) (hr : RestsOn p bank s) :
    HomeLeaves p bank s (homePhase3 s) .homePhase3Error [.reapproachingSlow] ∨
    HomeLeaves p bank s (homePhase3 s) .homed [.reapproachingSlow] := by
  obtain ⟨m, r⟩ := reapproach_moved (stepsPerHour s.cfg.val) p bank (writeHState .reapproachingSlow s) hr
  have g := reapproach_trace (stepsPerHour s.cfg.val) p bank (writeHState .reapproachingSlow s) hr
  rw [writeHState_trace] at g
  simp only [homePhase3]
  by_cases hc : (reapproach (stepsPerHour s.cfg.val) (writeHState .reapproachingSlow s)).1 = true
  · rw [if_pos hc]; exact .inr (homeLeaves_success m g r)
  · rw [if_neg hc]; exact .inl (homeLeaves_failure .phase3 m g r)

theorem homePhase2_outcome (p : Params) (bank : Bank) (s : State) (hr : RestsOn p bank s) :
    HomeLeaves p bank s (homePhase2 s) .homePhase2Error [.backingOff] ∨
    HomeLeaves p bank s (homePhase2 s) .homePhase3Error [.backingOff, .reapproachingSlow] ∨
    HomeLeaves p bank s (homePhase2 s) .homed [.backingOff, .reapproachingSlow] := by
  obtain ⟨m, r⟩ := backOff_moved (stepsPerHour s.cfg.val) p bank (writeHState .backingOff s) hr
  have g := backOff_trace (stepsPerHour s.cfg.val) p bank (writeHState .backingOff s) hr
  rw [writeHState_trace] at g
  simp only [homePhase2]
  by_cases hc : (backOff (stepsPerHour s.cfg.val) (writeHState .backingOff s)).1 = true
  · rw [if_pos hc]
    rcases homePhase3_outcome p bank _ r with h | h
    · exact .inr (.inl (homeLeaves_after m g h))
    · exact .inr (.inr (homeLeaves_after m g h))
  · rw [if_neg hc]; exact .inl (homeLeaves_failure .phase2 m g r)

/-- HOME ends in one of four ways, whatever the environment answers (R111, R118, R119; 60_exceptions.md R144). -/
theorem homeBody_outcome (s : State) :
    HomeLeaves s.cfg.val s.out s (homeBody s) .homePhase1Error [.seekingHomeForward] ∨
    HomeLeaves s.cfg.val s.out s (homeBody s) .homePhase2Error [.seekingHomeForward, .backingOff] ∨
    HomeLeaves s.cfg.val s.out s (homeBody s) .homePhase3Error
      [.seekingHomeForward, .backingOff, .reapproachingSlow] ∨
    HomeLeaves s.cfg.val s.out s (homeBody s) .homed
      [.seekingHomeForward, .backingOff, .reapproachingSlow] := by
  obtain ⟨k, hk⟩ : ∃ k, stepsPerCycle s.cfg.val + stepsPerHour s.cfg.val = k + 1 :=
    ⟨stepsPerCycle s.cfg.val + stepsPerHour s.cfg.val - 1, by have := stepsPerHour_pos s.cfg; omega⟩
  have m := seekHome_moved (k + 1) (writeHState .seekingHomeForward s)
  have r := seekHome_rests k (writeHState .seekingHomeForward s)
  have g := seekHome_trace k (writeHState .seekingHomeForward s)
  rw [writeHState_trace] at g
  simp only [homeBody, hk]
  by_cases hc : (seekHome (k + 1) (writeHState .seekingHomeForward s)).1 = true
  · rw [if_pos hc]
    rcases homePhase2_outcome _ _ _ r with h | h | h
    · exact .inr (.inl (homeLeaves_after m g h))
    · exact .inr (.inr (.inl (homeLeaves_after m g h)))
    · exact .inr (.inr (.inr (homeLeaves_after m g h)))
  · rw [if_neg hc]; exact .inl (homeLeaves_failure .phase1 m g r)

/-- Every HOME makes an event. -/
theorem homeBody_trace (s : State) : s.trace.length < (homeBody s).trace.length := by
  rcases homeBody_outcome s with h | h | h | h <;>
    (obtain ⟨u, marks, -, -, -, h1, -, h2, e⟩ := h; rw [e]; exact (h2 _ (List.mem_of_head? h1)).2)

end Sys2Proof.Machine
end

