-- ==== Sys2Proof/Laws/PerInstr.lean ====
section
/-! SUPPORT. Per-instruction family RowMatch: every word the encoder writes for an instruction has the fixed bits of the
instruction's row in the opcode table (30_encoding.md R69: `word & mask = match`). -/

namespace Sys2Proof.Laws.RowMatch

/-- The encoded word agrees with its table row on the row's mask. -/
def Statement (i : Instr) : Prop := encode i &&& tableMask i = tableMatch i

/-- A word whose operand bits are masked out keeps the bits of its top byte. -/
theorem topByte (o : BitVec 3) (p : BitVec 2) (a : Operand) :
    commandWord o p a &&& 0xFF00000000#40 = commandWord o p 0#32 := by
  apply BitVec.eq_of_getLsbD_eq
  intro i hi
  rw [BitVec.getLsbD_and, getLsbD_commandWord, getLsbD_commandWord]
  have h : (0xFF00000000#40).getLsbD i = decide (32 ≤ i) := by
    have : ∀ j : Fin 40, (0xFF00000000#40).getLsbD j.val = decide (32 ≤ j.val) := by decide
    exact this ⟨i, hi⟩
  rw [h]
  by_cases h1 : i < 32
  · simp [h1]
  · simp [show 32 ≤ i by omega]

theorem stepSlow (n : Operand) : Statement (.stepSlow n) :=
  (topByte _ _ n).trans (by decide : _ = 0x2000000000#40)

theorem stepAuto (n : Operand) : Statement (.stepAuto n) :=
  (topByte _ _ n).trans (by decide : _ = 0x2800000000#40)

theorem stepFast (n : Operand) : Statement (.stepFast n) :=
  (topByte _ _ n).trans (by decide : _ = 0x3000000000#40)

theorem update (hour : BitVec 5) (minute : BitVec 6) : Statement (.update hour minute) := by
  apply BitVec.eq_of_getLsbD_eq
  intro i hi
  have h : (0xFFFFFFF800#40).getLsbD i = decide (11 ≤ i) := by
    have : ∀ j : Fin 40, (0xFFFFFFF800#40).getLsbD j.val = decide (11 ≤ j.val) := by decide
    exact this ⟨i, hi⟩
  have h' : (0x4000000000#40) = commandWord 0b010#3 0b00#2 0#32 := by decide
  simp only [encode, tableMask, tableMatch]
  rw [BitVec.getLsbD_and, h, h', getLsbD_commandWord, getLsbD_commandWord, getLsbD_updateOperand]
  by_cases h1 : i < 11
  · simp [h1, show ¬ 11 ≤ i by omega, show i < 32 by omega]
  · simp [show 11 ≤ i by omega, show ¬ i < 6 by omega, show ¬ i < 11 by omega]

theorem home : Statement .home := by unfold Statement; decide

theorem calibrate : Statement .calibrate := by unfold Statement; decide

theorem isHome : Statement .isHome := by unfold Statement; decide

theorem isButton : Statement .isButton := by unfold Statement; decide

end Sys2Proof.Laws.RowMatch
end

