-- ==== Sys2Proof/Laws/Step.lean ====
section
/-! SUPPORT. What one step can do, said once (`step_cases`), and what CALIBRATE's pass is after its HOME: the lemmas that a
proof about `step` cites instead of unfolding it (30_encoding.md R66, 44_calibration.md R130, 70_reset_and_hazards.md R161). -/

namespace Sys2Proof.Machine

/-! ### A command under a reset pulse -/

theorem eventsSince_of_trace {u t : State} {ev : List Event} (h : t.trace = u.trace ++ ev) : eventsSince u t = ev := by
  unfold eventsSince; rw [h, List.drop_left]

/-- Without a pulse a command is what it is. -/
theorem underReset_none {u t : State} (h : u.resetAfter = none) : underReset u t = t := by
  unfold underReset; rw [h]

/-- A pulse that comes before the command's last event (70_reset_and_hazards.md R161). -/
theorem underReset_cut {u t : State} {ev : List Event} {k : Nat} (h : u.resetAfter = some k) (he : t.trace = u.trace ++ ev)
    (hk : k < ev.length) : underReset u t = abandon (ev.take k) t.statusSeen u := by
  unfold underReset; simp only [h, eventsSince_of_trace he, hk, if_true]

/-- A pulse that comes later waits for the events that are left. -/
theorem underReset_later {u t : State} {ev : List Event} {k : Nat} (h : u.resetAfter = some k) (he : t.trace = u.trace ++ ev)
    (hk : ev.length ≤ k) : underReset u t = { t with resetAfter := some (k - ev.length) } := by
  unfold underReset; simp only [h, eventsSince_of_trace he, if_neg (Nat.not_lt.mpr hk)]

/-- The two ways in which a command that makes the events `ev` can end. -/
theorem underReset_cases {u t : State} {ev : List Event} (he : t.trace = u.trace ++ ev) :
    (∃ k, u.resetAfter = some k ∧ k < ev.length ∧ underReset u t = abandon (ev.take k) t.statusSeen u) ∨
    ∃ r, underReset u t = { t with resetAfter := r } := by
  cases h : u.resetAfter with
  | none => exact .inr ⟨t.resetAfter, by rw [underReset_none h]⟩
  | some k =>
    by_cases hk : k < ev.length
    · exact .inl ⟨k, rfl, hk, underReset_cut h he hk⟩
    · exact .inr ⟨_, underReset_later h he (Nat.not_lt.mp hk)⟩

/-- A command that makes no event is not cut short. -/
theorem underReset_silent {u t : State} (he : t.trace = u.trace) (hr : t.resetAfter = u.resetAfter) : underReset u t = t := by
  have he' : t.trace = u.trace ++ [] := by simp [he]
  cases h : u.resetAfter with
  | none => exact underReset_none h
  | some k =>
    rw [underReset_later h he' (Nat.zero_le k)]
    simp only [List.length_nil, Nat.sub_zero, ← h, ← hr]

/-! ### The cases of a step -/

/-- The five kinds of step: the reset event, a pass or a wait of a busy CORE, a wait for a command, the answer to an illegal
word, and a command, which a reset pulse may cut short. -/
theorem step_cases {s t : State} (h : step s = .next t) :
    (s.resetPin = true ∧ t = resetEvent s) ∨
    (s.resetPin = false ∧ s.busy = true ∧ t = busyStep s) ∨
    (s.resetPin = false ∧ s.busy = false ∧ s.presented = [] ∧ t = waitStep s) ∨
    (s.resetPin = false ∧ s.busy = false ∧ ∃ w rest why, s.presented = w :: rest ∧ decode w = .illegal why ∧
      t = answerIllegal (accept s)) ∨
    (s.resetPin = false ∧ s.busy = false ∧ ∃ w rest i u, s.presented = w :: rest ∧ decode w = .instr i ∧
      exec i (accept s) = .next u ∧ t = underReset (accept s) u) := by
  unfold step at h
  cases hr : s.resetPin <;> simp only [hr, Bool.false_eq_true, if_false, if_true] at h
  · cases hb : s.busy <;> simp only [hb, Bool.false_eq_true, if_false, if_true] at h
    · unfold readyStep at h
      split at h
      · cases h; exact .inr (.inr (.inl ⟨rfl, rfl, by assumption, rfl⟩))
      · rename_i w rest hw
        unfold runWord at h
        split at h
        · rename_i i hd
          cases he : exec i (accept s) with
          | next u =>
            rw [he] at h; cases h
            exact .inr (.inr (.inr (.inr ⟨rfl, rfl, w, rest, i, u, hw, hd, he, rfl⟩)))
          | fault r => rw [he] at h; cases h
          | refused r => rw [he] at h; cases h
        · simp only [cutShort, underReset_silent (u := accept s) (t := answerIllegal (accept s)) rfl rfl,
            Host.Outcome.next.injEq] at h
          exact .inr (.inr (.inr (.inl ⟨rfl, rfl, w, rest, _, hw, by assumption, h.symm⟩)))
    · cases h; exact .inr (.inl ⟨rfl, rfl, rfl⟩)
  · cases h; exact .inl ⟨rfl, rfl⟩

/-- Every constructor's meaning is a next state, and which: the one unfolding of `exec` (30_encoding.md R69). -/
theorem exec_next (i : Instr) (s : State) : exec i s = .next (match i with
    | .stepSlow n => respond (responseWord false 0#2) (stepMotor (stepCount n) .slow s)
    | .stepAuto n => respond (responseWord false 0#2) (stepMotor (stepCount n) .auto s)
    | .stepFast n => respond (responseWord false 0#2) (stepMotor (stepCount n) .fast s)
    | .update hour minute => if hourInRange hour && minuteInRange minute
        then respond (responseWord false 0#2) (updateBody (minuteOfCycle s.cfg.val hour minute) s)
        else answerIllegal s
    | .home => respond (responseWord false (homeBody s).status) (homeBody s)
    | .calibrate => calibratePass s
    | .isHome => respond (responseWord false (boolVal (sampleHome s).1)) (sampleHome s).2
    | .isButton => respond (responseWord false (boolVal (sampleButton s).1)) (sampleButton s).2) := by
  cases i <;> rfl

/-! ### The button, and the pass of CALIBRATE -/

/-- A sample of the button when the answer is given (41_home_sensor_port.md R91, 20_memory.md R46). -/
theorem sampleButton_placed (s : State) (b : Bool) (rest : List Bool) (h : s.buttonIn = b :: rest) :
    sampleButton s = (b, { s with buttonIn := rest, trace := s.trace ++ [.buttonSample b] }) := by
  simp [sampleButton, buttonLevel, readButton, nextAnswer, drawsAfter, h]

/-- An abort check that reads 1 (44_calibration.md R131). -/
theorem abortCheck_pressed (s : State) (goOn : State → State) (rest : List Bool) (h : s.buttonIn = true :: rest) :
    abortCheck s goOn = endCalibrate { s with buttonIn := rest, trace := s.trace ++ [.buttonSample true] } := by
  simp [abortCheck, sampleButton_placed s true rest h]

/-- An abort check that reads 0 (44_calibration.md R131). -/
theorem abortCheck_released (s : State) (goOn : State → State) (rest : List Bool) (h : s.buttonIn = false :: rest) :
    abortCheck s goOn = goOn { s with buttonIn := rest, trace := s.trace ++ [.buttonSample false] } := by
  simp [abortCheck, sampleButton_placed s false rest h]

/-- A dwell right after a button sample adds one event, or none when it is 0 (44_calibration.md R130; 00_scope.md R16). -/
theorem delay_after_button (d : Nat) (s : State) (b : Bool) (t : List Event) (h : s.trace = t ++ [.buttonSample b]) :
    delay d s = { s with trace := s.trace ++ delayEvents d } := by
  unfold delay; rw [h, delayedTrace_after_button]

/-- The loops of HOME do not touch the button's answers (43_homing.md R123). -/
theorem homeBody_keeps (s : State) :
    (homeBody s).cfg = s.cfg ∧ (homeBody s).buttonIn = s.buttonIn ∧ (homeBody s).presented = s.presented ∧
    (homeBody s).resetPin = s.resetPin ∧ (homeBody s).busy = s.busy ∧ (homeBody s).calibrating = s.calibrating ∧
    (homeBody s).response = s.response ∧ (homeBody s).resetAfter = s.resetAfter := by
  rcases homeBody_outcome s with h | h | h | h <;>
    (obtain ⟨u, _, ⟨_, _, _, _, _, rfl⟩, -, -, -, -, -, e⟩ := h; rw [e]; exact ⟨rfl, rfl, rfl, rfl, rfl, rfl, rfl, rfl⟩)

/-- Where HOME leaves the motor: the phase index in range, the outputs released (10_state.md R21, R28). -/
theorem homeBody_rests (s : State) :
    (homeBody s).phaseIdx.toNat < phaseCount s.cfg.val ∧ (homeBody s).out = releasedBank s.cfg.val s.out := by
  rcases homeBody_outcome s with h | h | h | h <;>
    (obtain ⟨u, _, -, ⟨-, h1, h2⟩, -, -, -, -, e⟩ := h; rw [e]; exact ⟨h1, h2⟩)

/-- What HOME leaves in the position and status registers (43_homing.md R118, R119). -/
theorem homeBody_registers (s : State) :
    (homeBody s).status = statusOfState (homeBody s).hstate ∧ atRest (homeBody s).hstate = true ∧
    (((homeBody s).lastPosition = s.lastPosition ∧ (homeBody s).lastMinutes = s.lastMinutes) ∨
      ((homeBody s).lastPosition = 0#32 ∧ (homeBody s).lastMinutes = 0#11)) := by
  rcases homeBody_outcome s with h | h | h | h <;>
    (obtain ⟨u, _, -, -, -, -, -, -, e⟩ := h; rw [e]; exact ⟨rfl, rfl, by simp⟩)

/-- An abort check, for a property `Q` that samples keep and a property `P` of where it ends (44_calibration.md R131). -/
theorem abortCheck_rule {Q P : State → Prop} {goOn : State → State} (hb : ∀ u, Q u → Q (readButton u))
    (he : ∀ u, Q u → P (endCalibrate u)) (hg : ∀ u, Q u → P (goOn u)) {s : State} (h : Q s) : P (abortCheck s goOn) := by
  unfold abortCheck
  by_cases hc : (sampleButton s).1 = true
  · simp only [hc, if_true]; exact he _ (hb _ h)
  · simp only [hc]; exact hg _ (hb _ h)

/-- What holds after a pass of CALIBRATE: whatever its HOME leaves, its sub-moves keep, and its two ends turn into `P`
(44_calibration.md R130). -/
theorem calibratePass_rule {Q P : State → Prop} (hb : ∀ u, Q u → Q (readButton u)) (hd : ∀ d u, Q u → Q (delay d u))
    (hm : ∀ k u, Q u → Q (stepMotor k .fast u)) (he : ∀ u, Q u → P (endCalibrate u)) (hs : ∀ u, Q u → P (stayInFlight u))
    {s : State} (h : Q (homeBody s)) : P (calibratePass s) := by
  have h4 : ∀ u, Q u → P (calibrateShortDwell u) := fun u hu => abortCheck_rule hb he hs (hd _ _ hu)
  have h3 : ∀ u, Q u → P (calibrateBackMove u) := fun u hu => abortCheck_rule hb he h4 (hm _ _ hu)
  have h2 : ∀ u, Q u → P (calibrateLongDwell u) := fun u hu => abortCheck_rule hb he h3 (hd _ _ hu)
  simp only [calibratePass]
  by_cases hc : abortOnFailure (homeBody s) = true
  · rw [if_pos hc]; exact he _ h
  · rw [if_neg hc]; exact abortCheck_rule hb he h2 h

end Sys2Proof.Machine
end

