-- ==== Sys2Proof/Tests/Slice0.lean ====
section
/-! SUPPORT. Tests: words and results written out of 30_encoding.md and 95_test_vectors.md (each theorem names its vector),
and, for each statement with hypotheses, a witness that meets them. -/

namespace Sys2Proof.Tests

open Sys2Proof Sys2Proof.Machine

/-! ### The configurations of 95_test_vectors.md section 1 -/

/-- Configuration B, with `REVERSED` and `HOME_NO` open. -/
def paramsB (reversed homeNo : Bool) : Params where
  reversed := reversed
  halfStep := false
  fullStepsPerRev := 20
  secondsPerRev := 2
  homeNo := homeNo
  gearRatio := 1
  hoursPerRev := 5
  cycleHours := 12
  pin0 := 2
  pin1 := 4
  pin2 := 5
  pin3 := 18
  calDwellLongUs := 5000000
  calDwellShortUs := 1000000
  calFailPolicy := .ignore

/-- Configuration C, with `CAL_FAIL_POLICY` open. -/
def paramsC (policy : CalFailPolicy) : Params where
  reversed := false
  halfStep := false
  fullStepsPerRev := 7
  secondsPerRev := 1
  homeNo := false
  gearRatio := 1
  hoursPerRev := 1
  cycleHours := 1
  pin0 := 0
  pin1 := 1
  pin2 := 2
  pin3 := 3
  calDwellLongUs := 5000000
  calDwellShortUs := 1000000
  calFailPolicy := policy

def configB : Configuration := ⟨paramsB false false, by decide⟩
def configBReversed : Configuration := ⟨paramsB true false, by decide⟩
def configBNormallyOpen : Configuration := ⟨paramsB false true, by decide⟩
def configC : Configuration := ⟨paramsC .ignore, by decide⟩
def configCAbort : Configuration := ⟨paramsC .abort, by decide⟩

/-- A machine at rest with the given `PHASE_IDX`, `LAST_MINUTES` and `LAST_POSITION`. -/
def machine (c : Configuration) (idx : BitVec 3) (minutes : BitVec 11) (pos : BitVec 32) : State :=
  { State.resetWith c with phaseIdx := idx, lastMinutes := minutes, lastPosition := pos }

/-- The machine when its next step accepts `w` and the samples are answered by the given raw levels. -/
def offered (w : Command) (home button : List Bool) (s : State) : State := withAnswers home button (present w s)

def nextState? (o : Host.Outcome State Fault Refusal) : Option State :=
  match o with
  | .next t => some t
  | .fault _ => none
  | .refused _ => none

/-- The state after one step on an offered word. -/
def run (w : Command) (home button : List Bool) (s : State) : Option State := nextState? (step (offered w home button s))

/-- What a vector of 95_test_vectors.md lists at its end. -/
structure Listed where
  response : Option Response
  phaseIdx : Nat
  lastMinutes : Nat
  lastPosition : Nat
  hstate : HState
  status : Nat
  deriving DecidableEq, Repr

def listed (s : State) : Listed :=
  ⟨s.response, s.phaseIdx.toNat, s.lastMinutes.toNat, s.lastPosition.toNat, s.hstate, s.status.toNat⟩

/-- The counts of a vector: steps, samples, total delay. -/
def counted (s : State) : Nat × Nat × Nat := (pulseCount s.trace, sampleCount s.trace, totalDelay s.trace)

/-! ### WellFormed and Decode -/

theorem test_hour_24_ill_formed : (Instr.update 24#5 0#6).wellFormed = false := by decide
theorem test_minute_60_ill_formed : (Instr.update 23#5 60#6).wellFormed = false := by decide
theorem test_last_minute_well_formed : (Instr.update 23#5 59#6).wellFormed = true := by decide

/-- 95_test_vectors.md section 9, the STEP words, and `0010 0000` to `0011 0000` before the operand bits. -/
theorem test_decode_step :
    decode 0b0010000000000000000000000000000000000001#40 = .instr (.stepSlow 1#32) ∧
    decode 0b0010100000000000000000000000000000000101#40 = .instr (.stepAuto 5#32) ∧
    decode 0b0011000011111111111111111111111111111101#40 = .instr (.stepFast (BitVec.ofInt 32 (-3))) ∧
    decode 0x207FFFFFFF#40 = .instr (.stepSlow 0x7FFFFFFF#32) ∧
    decode 0x3080000000#40 = .instr (.stepFast 0x80000000#32) ∧
    decode 0x3000000000#40 = .instr (.stepFast 0#32) := by decide

/-- 95_test_vectors.md section 9, the UPDATE words: `hhhhh` is 6 then 23, `mmmmmm` is 1 then 59. -/
theorem test_decode_update :
    decode 0b0100000000000000000000000000000110000001#40 = .instr (.update 6#5 1#6) ∧
    decode 0b0100000000000000000000000000010111111011#40 = .instr (.update 23#5 59#6) ∧
    decode 0x40000002FB#40 = .instr (.update 11#5 59#6) ∧
    decode 0x4000000000#40 = .instr (.update 0#5 0#6) := by decide

/-- 95_test_vectors.md section 9, the words without an operand. -/
theorem test_decode_no_operand :
    decode 0b0110000000000000000000000000000000000000#40 = .instr .home ∧
    decode 0b1000000000000000000000000000000000000000#40 = .instr .calibrate ∧
    decode 0b1010000000000000000000000000000000000000#40 = .instr .isHome ∧
    decode 0b1100000000000000000000000000000000000000#40 = .instr .isButton := by decide

/-- 95_test_vectors.md section 9, the illegal words, each with the ground of R62 it is given there. -/
theorem test_decode_illegal :
    decode 0x0000000000#40 = .illegal .reservedOpcode ∧ decode 0xE000000000#40 = .illegal .reservedOpcode ∧
    decode 0x3800000001#40 = .illegal .reservedSpeed ∧ decode 0x3100000001#40 = .illegal .zeroFieldNotZero ∧
    decode 0x2700000000#40 = .illegal .zeroFieldNotZero ∧ decode 0x4800000000#40 = .illegal .speedOnOtherCommand ∧
    decode 0x4000000600#40 = .illegal .hourOutOfRange ∧ decode 0x40000007C0#40 = .illegal .hourOutOfRange ∧
    decode 0x400000003C#40 = .illegal .minuteOutOfRange ∧ decode 0x400000003F#40 = .illegal .minuteOutOfRange ∧
    decode 0x4000000800#40 = .illegal .updateHighBitsNotZero ∧ decode 0x40FFFFFFFF#40 = .illegal .updateHighBitsNotZero ∧
    decode 0x6000000001#40 = .illegal .operandNotZero ∧ decode 0x6800000000#40 = .illegal .speedOnOtherCommand ∧
    decode 0x8000000100#40 = .illegal .operandNotZero ∧ decode 0xA000000001#40 = .illegal .operandNotZero ∧
    decode 0xD000000000#40 = .illegal .speedOnOtherCommand := by decide

/-- The host's two entry points, on the table's word of IS_BUTTON and on an illegal word. -/
theorem test_table_word : decodeTableWord 40 0xC000000000 = some .isButton ∧ decodeTableWord 40 0xE000000000 = none := by
  decide

theorem test_fetch_word_runs :
    (nextState? (step (State.reset.withFetchWord 40 0x3000000000))).map State.trace = some [.clr 0xF#32] := by decide

/-! ### STEP -/

/-- VS1: a zero count, from index 2. -/
theorem test_step_slow_zero :
    (run 0x2000000000#40 [] [] (machine configB 2 0 0)).map (fun t => (t.trace, listed t)) =
      some ([.clr 0x00040034#32], ⟨some 0#4, 2, 0, 0, .idle, 0⟩) := by decide

/-- VS8: two slow steps backward from index 0. -/
theorem test_step_slow_backward :
    (run 0x20FFFFFFFE#40 [] [] (machine configB 0 0 0)).map (fun t => (t.trace, listed t)) =
      some ([.set 0x00040000#32, .delay 500000, .clr 0x00040034#32, .set 0x00000020#32, .delay 500000,
        .clr 0x00040034#32], ⟨some 0#4, 2, 0, 0, .idle, 0⟩) := by decide +kernel

/-- VS7: five Auto steps, units 6, 7, 7, 7, 7. -/
theorem test_step_auto_ramp :
    (run 0x2800000005#40 [] [] (machine configB 0 0 0)).map (fun t => (t.trace, listed t)) =
      some ([.set 0x00000010#32, .delay 600000, .clr 0x00040034#32, .set 0x00000020#32, .delay 700000,
        .clr 0x00040034#32, .set 0x00040000#32, .delay 700000, .clr 0x00040034#32, .set 0x00000004#32, .delay 700000,
        .clr 0x00040034#32, .set 0x00000010#32, .delay 700000, .clr 0x00040034#32],
        ⟨some 0#4, 1, 0, 0, .idle, 0⟩) := by decide +kernel

/-- VS15: a hundred Auto steps backward in half-step, 167 units. -/
theorem test_step_auto_long :
    (run 0x28FFFFFF9C#40 [] [] (machine configurationA 3 0 0)).map (fun t => (counted t, listed t)) =
      some ((100, 0, 326151), ⟨some 0#4, 7, 0, 0, .idle, 0⟩) := by decide +kernel

/-- VS10: three fast steps backward in half-step: indices 7, 6, 5. -/
theorem test_step_fast_half_step :
    (run 0x30FFFFFFFD#40 [] [] (machine configurationA 0 0 0)).map (fun t => (t.trace, listed t)) =
      some ([.set 0x9#32, .delay 1953, .clr 0xF#32, .set 0x8#32, .delay 1953, .clr 0xF#32, .set 0xC#32, .delay 1953,
        .clr 0xF#32], ⟨some 0#4, 5, 0, 0, .idle, 0⟩) := by decide +kernel

/-- VS13: four fast steps with `REVERSED = 1`. -/
theorem test_step_fast_reversed :
    (run 0x3000000004#40 [] [] (machine configBReversed 0 0 0)).map (fun t => (t.trace, listed t)) =
      some ([.set 0x00000020#32, .delay 100000, .clr 0x00040034#32, .set 0x00000010#32, .delay 100000,
        .clr 0x00040034#32, .set 0x00000004#32, .delay 100000, .clr 0x00040034#32, .set 0x00040000#32, .delay 100000,
        .clr 0x00040034#32], ⟨some 0#4, 0, 0, 0, .idle, 0⟩) := by decide +kernel

/-! ### UPDATE -/

/-- VU15: odd `S`, raw delta +4 becomes -3. -/
theorem test_update_shortest_path :
    (run 0x4000000023#40 [] [] (machine configC 0 0 0)).map (fun t => (t.trace, listed t)) =
      some ([.set 0x8#32, .delay 999999, .clr 0xF#32, .set 0x4#32, .delay 999999, .clr 0xF#32, .set 0x2#32, .delay 999999,
        .clr 0xF#32], ⟨some 0#4, 1, 35, 4, .idle, 0⟩) := by decide +kernel

/-- VU5: the cycle wraps, 92 steps forward from 11:59 to 00:00. -/
theorem test_update_wraps :
    (run 0x4000000000#40 [] [] (machine configurationA 4 719 65440)).map (fun t => (counted t, listed t)) =
      some ((92, 0, 310527), ⟨some 0#4, 0, 0, 0, .idle, 0⟩) := by decide +kernel

/-! ### HOME -/

/-- VH15 (the trace of VH1 with inverted raw bits): a successful HOME, `HOME_NO = 1`. -/
theorem test_home_success :
    (run 0x6000000000#40 [true, true, false, false, true, true, false] [] (machine configBNormallyOpen 0 105 7)).map
        (fun t => (t.trace, listed t)) =
      some ([.set 0x00000010#32, .delay 100000, .clr 0x00040034#32, .homeSample true, .set 0x00000020#32, .delay 100000,
        .clr 0x00040034#32, .homeSample true, .set 0x00040000#32, .delay 100000, .clr 0x00040034#32, .homeSample false,
        .homeSample false, .set 0x00000020#32, .delay 100000, .clr 0x00040034#32, .homeSample true, .homeSample true,
        .set 0x00040000#32, .delay 500000, .clr 0x00040034#32, .homeSample false],
        ⟨some 0#4, 3, 0, 0, .homed, 0⟩) := by decide +kernel

/-- VH9: the sensor is lost after phase 2. -/
theorem test_home_phase3_error :
    (run 0x6000000000#40 [false, true, true, false, false, false, false, false, false] [] (machine configB 0 105 7)).map
        (fun t => (counted t, listed t)) =
      some ((7, 9, 2300000), ⟨some 3#4, 1, 105, 7, .homePhase3Error, 3⟩) := by decide +kernel

/-- The codes on the status port after the given numbers of events, where there is one. -/
def codesShown (ks : List Nat) (s : State) : List (Option Nat) :=
  ks.map fun k => (statusDuring s k).map fun v => v.hstate.toNat

/-- VH15 again, on the status port: its trace has phase 1 in events 1 to 12, phase 2 in 13 to 17 and phase 3 in 18 to 22
(60_exceptions.md R155, codes of 10_state.md R25). -/
theorem test_status_port_during_home :
    (run 0x6000000000#40 [true, true, false, false, true, true, false] [] (machine configBNormallyOpen 0 105 7)).map
        (codesShown [0, 11, 12, 16, 17, 21, 22, 23]) =
      some [some 1, some 1, some 2, some 2, some 3, some 3, some 4, none] := by decide +kernel

/-- The same HOME cut short by a reset after 13 events. -/
theorem test_status_port_until_reset :
    (run 0x6000000000#40 [true, true, false, false, true, true, false] []
        (pulseReset 13 (machine configBNormallyOpen 0 105 7))).map
        (fun t => (codesShown [0, 11, 12, 13, 14] t, t.hstate)) =
      some ([some 1, some 1, some 2, some 2, none], .idle) := by decide +kernel

/-! ### CALIBRATE -/

/-- VK3: the button is pressed after the backward move. -/
theorem test_calibrate_aborted :
    (run 0x8000000000#40 [false, false, true, true, false, false, true] [false, false, true] (machine configB 0 0 0)).map
        (fun t => (counted t, listed t, t.busy)) =
      some ((9, 10, 6300000), ⟨some 0#4, 3, 0, 0, .homed, 0⟩, false) := by decide +kernel

/-- VK4, its first pass: HOME fails, the loop goes on, `BUSY` stays 1. -/
theorem test_calibrate_ignores_failure :
    (run 0x8000000000#40 (List.replicate 52 false) (List.replicate 4 false) (machine configB 0 105 7)).map
        (fun t => (counted t, listed t, t.busy)) =
      some ((56, 56, 11600000), ⟨none, 0, 105, 7, .homePhase1Error, 1⟩, true) := by decide +kernel

/-! ### The queries -/

/-- VQ2, and VQ4 with `HOME_NO = 1`. -/
theorem test_is_home_active :
    (run 0xA000000000#40 [true] [] (machine configB 0 0 0)).map (fun t => (t.trace, t.response)) =
      some ([.homeSample true], some 1#4) := by decide

theorem test_is_home_normally_open :
    (run 0xA000000000#40 [true] [] (machine configBNormallyOpen 0 0 0)).map (fun t => (t.trace, t.response)) =
      some ([.homeSample true], some 0#4) := by decide

/-- VQ6 and VQ5. -/
theorem test_is_button_pressed :
    (run 0xC000000000#40 [] [true] (machine configB 0 0 0)).map (fun t => (t.trace, t.response)) =
      some ([.buttonSample true], some 1#4) := by decide

theorem test_is_button_released :
    (run 0xC000000000#40 [] [false] (machine configB 0 0 0)).map (fun t => (t.trace, t.response)) =
      some ([.buttonSample false], some 0#4) := by decide

/-! ### Illegal words and reset -/

/-- P5 command 2: an illegal word after a failed HOME. -/
theorem test_illegal_word :
    (run 0x3800000001#40 [] [] { machine configB 0 105 7 with hstate := .homePhase1Error, status := 1 }).map
        (fun t => (t.trace, listed t)) =
      some ([], ⟨some 0b1000#4, 0, 105, 7, .homePhase1Error, 1⟩) := by decide

/-- VR1 and the reset event of 70_reset_and_hazards.md R161 on a machine in flight: the CORE's four bank bits go to 0, the
others stay. -/
theorem test_reset_event :
    nextState? (step { machine configB 3 105 7 with
        resetPin := true, busy := true, calibrating := true, hstate := .homed, out := 0x80000010#32 }) =
      some { State.resetWith configB with resetPin := true, out := 0x80000000#32 } := by decide

/-- VR2: a reset in the middle of VS9, after the third `Set` (its seventh event). -/
theorem test_reset_during_command :
    run 0x3000000008#40 [] [] (pulseReset 7 (machine configurationA 0 0 0)) =
      some { State.resetWith configurationA with
        trace := [.set 0x3#32, .delay 1953, .clr 0xF#32, .set 0x2#32, .delay 1953, .clr 0xF#32, .set 0x6#32]
        statusSeen := [⟨0, .idle, 0⟩] } := by decide +kernel

/-! ### Witnesses: for each statement with hypotheses, values that meet them

A statement whose only hypothesis is a next state has it here as `⟨_, rfl⟩`. -/

theorem witness_table_rows :
    0x207FFFFFFF#40 &&& 0xFF00000000#40 = 0x2000000000#40 ∧ 0x28FFFFFFFF#40 &&& 0xFF00000000#40 = 0x2800000000#40 ∧
    0x3080000000#40 &&& 0xFF00000000#40 = 0x3000000000#40 ∧
    (0x40000005FB#40 &&& 0xFFFFFFF800#40 = 0x4000000000#40 ∧ ((0x40000005FB#40).extractLsb' 6 5).toNat = 23 ∧
      ((0x40000005FB#40).extractLsb' 0 6).toNat = 59) ∧
    0x6000000000#40 &&& 0xFFFFFFFFFF#40 = 0x6000000000#40 ∧ 0x8000000000#40 &&& 0xFFFFFFFFFF#40 = 0x8000000000#40 ∧
    0xA000000000#40 &&& 0xFFFFFFFFFF#40 = 0xA000000000#40 ∧ 0xC000000000#40 &&& 0xFFFFFFFFFF#40 = 0xC000000000#40 := by
  decide

/-- DecodeEncode, FetchedWordRuns, EncodeDecode. -/
theorem witness_well_formed :
    (Instr.update 23#5 59#6).wellFormed = true ∧ decode 0x40000005FB#40 = .instr (.update 23#5 59#6) := by decide

theorem witness_step_runs_decoded :
    let s := offered 0x6000000000#40 [] [] (machine configB 0 0 0)
    s.resetPin = false ∧ s.resetAfter = none ∧ s.busy = false ∧ s.presented = [0x6000000000#40] ∧
      decode 0x6000000000#40 = .instr .home := by decide

theorem witness_illegal_word :
    let s := offered 0x40FFFFFFFF#40 [] [] (machine configB 0 0 0)
    s.resetPin = false ∧ s.busy = false ∧ s.presented = [0x40FFFFFFFF#40] ∧
      decode 0x40FFFFFFFF#40 = .illegal .updateHighBitsNotZero := by decide

theorem witness_update_out_of_range : 23 < (24#5).toNat ∧ 59 < (60#6).toNat := by decide

/-- A CALIBRATE in flight, with another word waiting. -/
def inFlight : State :=
  { machine configB 0 0 0 with busy := true, calibrating := true, presented := [0x3000000001#40] }

theorem witness_busy : inFlight.busy = true ∧ ∃ t, step inFlight = .next t := ⟨rfl, _, rfl⟩

theorem witness_waits : State.reset.resetPin = false ∧ State.reset.busy = false ∧ State.reset.presented = [] := by decide

/-- Both clauses of ResetAbandonsTheCommand, and StatusPortUntilReset: a command of one event, with the pulse before it and
after it. -/
theorem witness_reset_abandons :
    let s := offered 0xA000000000#40 [true] [] (pulseReset 0 (machine configB 0 0 0))
    s.resetPin = false ∧ s.resetAfter = some 0 ∧ s.busy = false ∧ s.presented = [0xA000000000#40] ∧
      decode 0xA000000000#40 = .instr .isHome ∧
      ∃ t u, step s = .next t ∧ exec .isHome { s with
          busy := true, presented := [], response := none, trace := [], statusSeen := [⟨0, s.hstate, s.status⟩] } = .next u ∧
        0 < u.trace.length ∧ u.trace.length ≤ 1 :=
  ⟨by decide, by decide, by decide, by decide, by decide, _, _, rfl, rfl, by decide, by decide⟩

/-- Both clauses of ResetAbandonsCalibrateInFlight: a pass that a press ends at once, with the pulse after its first event
and after its last (a phase 1 that finds the sensor after one step, 4 events, a sample on entry of phase 2, 1 event, of
phase 3, 1 event, and the press, 1 event). -/
theorem witness_reset_abandons_calibrate :
    let s := pulseReset 1 (withAnswers [true, false, true] [true] inFlight)
    s.resetPin = false ∧ s.resetAfter = some 1 ∧ s.busy = true ∧ s.calibrating = true ∧
      ∃ u, exec .calibrate { s with response := none } = .next u ∧ u.trace = s.trace ++ u.trace ∧
        1 < u.trace.length ∧ u.trace.length ≤ 7 :=
  ⟨by decide, by decide, by decide, by decide, _, rfl, by decide +kernel, by decide +kernel, by decide +kernel⟩

theorem witness_reset_event : (driveReset true State.reset).resetPin = true := by decide

theorem witness_reversible :
    let s := machine configB 3 0 0
    s.phaseIdx.toNat < phaseCount s.cfg.val ∧
      (∃ t u, exec (.stepFast 3#32) s = .next t ∧ exec (.stepFast (-3#32)) t = .next u) ∧
      (∃ t u, exec (.stepSlow 3#32) s = .next t ∧ exec (.stepSlow (-3#32)) t = .next u) ∧
      ∃ t u, exec (.stepAuto 3#32) s = .next t ∧ exec (.stepAuto (-3#32)) t = .next u :=
  ⟨by decide, ⟨_, _, rfl, rfl⟩, ⟨_, _, rfl, rfl⟩, _, _, rfl, rfl⟩

theorem witness_durations :
    let s := machine configB 0 0 0
    20 ≤ (20#32).toInt.natAbs ∧ (∃ t, exec (.stepAuto 20#32) s = .next t) ∧ (∃ t, exec (.stepSlow 0#32) s = .next t) ∧
      ∃ t, exec (.stepFast 0x80000000#32) s = .next t :=
  ⟨by decide, ⟨_, rfl⟩, ⟨_, rfl⟩, _, rfl⟩

theorem witness_phase_tables : (paramsB true false).halfStep = false ∧ paramsA.halfStep = true := by decide

/-- TraceDrivesTheBank, StatusWriters, PositionWriters, OtherBankBitsKept, ConfigurationNeverChanges. -/
theorem witness_exec_and_step :
    (∃ t, exec .isHome State.reset = .next t) ∧ (∃ t, exec .home State.reset = .next t) ∧
      ∃ t, step (offered 0x3000000001#40 [] [] State.reset) = .next t :=
  ⟨⟨_, rfl⟩, ⟨_, rfl⟩, _, rfl⟩

theorem witness_samples_released :
    let s := withAnswers [true] [] State.reset
    OutputsReleased s ∧ ∃ t, exec .isHome s = .next t ∧
      t.trace = s.trace ++ [] ++ .homeSample true :: [] ∧ isSample (.homeSample true) = true :=
  ⟨by decide, _, rfl, by decide, rfl⟩

theorem witness_ignore_inputs : ∃ n, Instr.stepAuto 5#32 = .stepAuto n := ⟨_, rfl⟩

theorem witness_queries :
    (withAnswers [true] [false] State.reset).homeIn = true :: [] ∧
      (withAnswers [true] [false] State.reset).buttonIn = false :: [] ∧ State.reset.homeIn = [] ∧
      State.reset.buttonIn = [] := by decide

/-- UpdateResult, UpdateMovesAtMostHalfACycle and both clauses of UpdateIsIdempotent and UpdateReachesTarget: 23:59 is a new
minute from reset, and the minute in the register after it. -/
theorem witness_update :
    let s := machine configB 1 375 25
    (23#5).toNat ≤ 23 ∧ (59#6).toNat ≤ 59 ∧ s.lastPosition.toNat < stepsPerCycle s.cfg.val ∧
      (∃ t, exec (.update 23#5 59#6) s = .next t ∧ t.lastMinutes ≠ s.lastMinutes) ∧
      (18#5).toNat % s.cfg.val.cycleHours * 60 + (15#6).toNat = s.lastMinutes.toNat ∧
      ∃ t, exec (.update 18#5 15#6) s = .next t ∧ t.lastMinutes = s.lastMinutes :=
  ⟨by decide, by decide, by decide, ⟨_, rfl, by decide +kernel⟩, by decide, _, rfl, by decide +kernel⟩

/-- `S = 7`: raw 3 is no longer than `S div 2`, raw -4 is longer; and the least ring. -/
theorem witness_shortest_path :
    0 < 7 ∧ (3 : Int).natAbs ≤ 7 - 1 ∧ (3 : Int).natAbs ≤ 7 / 2 ∧ (-4 : Int).natAbs ≤ 7 - 1 ∧ 7 / 2 < (-4 : Int).natAbs ∧
      (0 : Int).natAbs ≤ 1 - 1 := by decide

/-- Every budget used to its last step: `S = 7`, `H = 7`. -/
theorem witness_home_succeeds :
    let s := withAnswers ((answersOf false 13 ++ answersOf true 7 ++ answersOf false 7).map (rawLevel configC.val)) []
      (machine configC 0 0 0)
    13 + 1 = stepsPerCycle s.cfg.val + stepsPerHour s.cfg.val ∧ 7 = stepsPerHour s.cfg.val ∧
      s.homeIn = (answersOf false 13 ++ answersOf true 7 ++ answersOf false 7).map (rawLevel s.cfg.val) ++ [] := by
  decide +kernel

/-- The three failures, each at the end of its budget (VH7, VH8, VH14 are in configuration B). -/
theorem witness_home_failures :
    let H := stepsPerHour configB.val
    let S := stepsPerCycle configB.val
    (withAnswers ((List.replicate (S + H) false).map (rawLevel configB.val)) [] (machine configB 0 0 0)).homeIn =
      (List.replicate (S + H) false).map (rawLevel configB.val) ++ [] ∧
    (0 + 1 ≤ S + H ∧
      (withAnswers ((answersOf false 0 ++ List.replicate (H + 1) true).map (rawLevel configB.val)) []
        (machine configB 0 0 0)).homeIn =
        (answersOf false 0 ++ List.replicate (H + 1) true).map (rawLevel configB.val) ++ []) ∧
    51 + 1 ≤ S + H ∧ 4 ≤ H ∧
      (withAnswers ((answersOf false 51 ++ answersOf true 4 ++ List.replicate (H + 1) false).map (rawLevel configB.val)) []
        (machine configB 0 0 0)).homeIn =
        (answersOf false 51 ++ answersOf true 4 ++ List.replicate (H + 1) false).map (rawLevel configB.val) ++ [] := by
  decide +kernel

/-- HomeBounds and HomePaths, whatever the environment answers. -/
theorem witness_home : ∃ t, exec .home State.reset = .next t := ⟨_, rfl⟩

/-- StatusPortDuringHome: the premises, an event number below the last one, and two numbers at which the port shows something. -/
theorem witness_status_port :
    let s := offered 0x6000000000#40 [true, false, true] [] (machine configB 0 0 0)
    s.resetPin = false ∧ s.resetAfter = none ∧ s.busy = false ∧ s.presented = [0x6000000000#40] ∧
      ∃ t, step s = .next t ∧ 5 < t.trace.length ∧ (statusDuring t 0).isSome = true ∧ (statusDuring t 5).isSome = true :=
  ⟨by decide, by decide, by decide, by decide, _, rfl, by decide +kernel, by decide +kernel, by decide +kernel⟩

/-- CalibratePassResult: a failed HOME with the policy Abort, a successful one, and the policy Ignore; a press at check 0 and
at check 3, and none. -/
theorem witness_calibrate_pass :
    (∃ u, exec .home (withAnswers (List.replicate 14 false) [] (machine configCAbort 0 0 0)) = .next u ∧
      configCAbort.val.calFailPolicy = .abort ∧ u.status ≠ 0#2) ∧
    (∃ u, exec .home (withAnswers [true, false, true] [true] (machine configCAbort 0 0 0)) = .next u ∧ u.status = 0#2) ∧
    configC.val.calFailPolicy = .ignore ∧ [true] = answersOf false 0 ++ [] ∧
    [false, false, false, true] = answersOf false 3 ++ [] ∧
    [false, false, false, false] = List.replicate 4 false ++ ([] : List Bool) :=
  ⟨⟨_, rfl, by decide, by decide +kernel⟩, ⟨_, rfl, by decide +kernel⟩, by decide, by decide, by decide, by decide⟩

/-- CalibrateResumes, CalibrateRunsWhileNotPressed, CalibrateEndsWhenPressed: in flight, and on acceptance. -/
theorem witness_calibrate_runs :
    inFlight.cfg.val.calFailPolicy = .ignore ∧ inFlight.resetPin = false ∧ inFlight.resetAfter = none ∧
    (inFlight.busy = true ∧ inFlight.calibrating = true ∧ inFlight.presented = [0x3000000001#40]) ∧
    (withAnswers [] (List.replicate 8 false) inFlight).buttonIn = List.replicate (4 * (1 + 1)) false ++ [] ∧
    (withAnswers [] (answersOf false 4) inFlight).buttonIn = answersOf false 4 ++ [] ∧
    (offered 0x8000000000#40 [] [] (machine configB 0 0 0)).busy = false ∧
    (offered 0x8000000000#40 [] [] (machine configB 0 0 0)).presented = 0x8000000000#40 :: [] := by decide

theorem witness_invariant :
    CoreInv (machine configB 1 375 25) ∧ ∃ t, step (machine configB 1 375 25) = .next t :=
  ⟨by decide +kernel, _, rfl⟩

/-- PositionWriters and StatusWriters. -/
theorem witness_writers :
    (∀ hour minute, Instr.home ≠ .update hour minute) ∧ Instr.stepSlow 1#32 ≠ .home ∧ Instr.stepSlow 1#32 ≠ .calibrate :=
  ⟨by simp, by decide, by decide⟩

end Sys2Proof.Tests
end

/-! The family 20_memory.md: the output bank (R42, R43). -/

namespace Sys2Proof.Machine

/-- Settles O22. `GpioSet` and `GpioClear` are as R42 and R43 write them. For a command, `exec_emits` gives the events it
adds: the bank follows them, and each is `Driven`, which for a `Set` is the mask of a phase pattern (R42) and for a `Clr`
is `ALLMASK`. -/
theorem traceDrivesTheBank : Obligations.TraceDrivesTheBank := by
  unfold Obligations.TraceDrivesTheBank
  refine ⟨fun _ _ => rfl, fun _ _ => rfl, fun i s t h => ?_⟩
  obtain ⟨ev, emits⟩ := exec_emits i s t h
  have set_masks (m : Bank) (hm : .set m ∈ ev) :
      m ≠ 0#32 ∧ m &&& ~~~(allMask s.cfg.val) = 0#32 ∧
        ∃ k < phaseCount s.cfg.val, m = pinMask s.cfg.val (phasePattern s.cfg.val k) :=
    emits.driven (.set m) hm
  have clr_masks (m : Bank) (hm : .clr m ∈ ev) : m = allMask s.cfg.val := emits.driven (.clr m) hm
  exact ⟨ev, emits.trace, emits.out, set_masks, clr_masks⟩

end Sys2Proof.Machine

/-! The family 30_encoding.md: the decoder against the encoder and against the table of R69. -/

namespace Sys2Proof

/-! ### Decoder and encoder are inverse on well-formed instructions -/

theorem decode_encode (i : Instr) (h : i.wellFormed = true) : decode (encode i) = .instr i := by
  unfold decode
  cases i with
  | stepSlow n | stepAuto n | stepFast n =>
    simp [encode, opcOf_commandWord, spdOf_commandWord, zeroOf_commandWord, argOf_commandWord, decodeStep]
  | update hour minute =>
    obtain ⟨hh, hm⟩ : hourInRange hour = true ∧ minuteInRange minute = true := by simpa [Instr.wellFormed] using h
    simp [encode, opcOf_commandWord, spdOf_commandWord, zeroOf_commandWord, argOf_commandWord, decodeUpdate,
      updateHighOf_updateOperand, hourOf_updateOperand, minuteOf_updateOperand, hh, hm]
  | home | calibrate | isHome | isButton => decide

/-- What `decodeStep` accepts is the operand under the speed that it was read with (R58). -/
theorem encode_of_decodeStep {spd : BitVec 2} {arg : Operand} {i : Instr} (h : decodeStep spd arg = .instr i) :
    encode i = commandWord 0b001#3 spd arg ∧ i.wellFormed = true := by
  unfold decodeStep at h
  split at h
  case isTrue slow => cases h; subst slow; exact ⟨rfl, rfl⟩
  split at h
  case isTrue auto => cases h; subst auto; exact ⟨rfl, rfl⟩
  split at h
  case isTrue fast => cases h; subst fast; exact ⟨rfl, rfl⟩
  case isFalse => cases h

/-- What `decodeUpdate` accepts is an operand of zero high bits and of fields in range (R60). -/
theorem encode_of_decodeUpdate {arg : Operand} {i : Instr} (h : decodeUpdate arg = .instr i) :
    encode i = commandWord 0b010#3 0b00#2 arg ∧ i.wellFormed = true := by
  unfold decodeUpdate at h
  split at h
  case isTrue => cases h
  case isFalse high =>
  split at h
  case isTrue => cases h
  case isFalse hh =>
  split at h
  case isTrue => cases h
  case isFalse hm =>
  cases h
  have operand := updateOperand_of_fields arg (not_not.mp high)
  exact ⟨congrArg (commandWord 0b010#3 0b00#2) operand, by simp [Instr.wellFormed, hh, hm]⟩

/-- What `decodeNoOperand` accepts is its instruction with operand 0 (R61). -/
theorem encode_of_decodeNoOperand {opc : BitVec 3} {arg : Operand} {j i : Instr} (h : decodeNoOperand j arg = .instr i)
    (enc : encode j = commandWord opc 0b00#2 0#32) (wf : j.wellFormed = true) :
    encode i = commandWord opc 0b00#2 arg ∧ i.wellFormed = true := by
  unfold decodeNoOperand at h
  split at h
  case isTrue ha => cases h; subst ha; exact ⟨enc, wf⟩
  case isFalse => cases h

/-- The decoder's grounds (R62), read backwards: a word that passes them all is the encoding of what it decodes to. -/
theorem encode_of_decode {w : Command} {i : Instr} (h : decode w = .instr i) : encode i = w ∧ i.wellFormed = true := by
  unfold decode at h
  split at h
  case isTrue => cases h
  case isFalse not_reserved =>
  split at h
  case isTrue => cases h
  case isFalse zero =>
  rw [← commandWord_of_fields w (not_not.mp zero)]
  split at h
  case isTrue opc => rw [opc]; exact encode_of_decodeStep h
  case isFalse not_step =>
  split at h
  case isTrue => cases h
  case isFalse spd =>
  rw [not_not.mp spd]
  split at h
  case isTrue opc => rw [opc]; exact encode_of_decodeUpdate h
  case isFalse not_update =>
  split at h
  case isTrue opc => rw [opc]; exact encode_of_decodeNoOperand h rfl rfl
  case isFalse not_home =>
  split at h
  case isTrue opc => rw [opc]; exact encode_of_decodeNoOperand h rfl rfl
  case isFalse not_calibrate =>
  split at h
  case isTrue opc => rw [opc]; exact encode_of_decodeNoOperand h rfl rfl
  case isFalse not_isHome =>
    have opc : opcOf w = 0b110#3 := by bv_omega
    rw [opc]; exact encode_of_decodeNoOperand h rfl rfl

/-- The decoder answers an instruction for that instruction's well-formed encoding and for no other word. -/
theorem decode_eq_instr_iff (w : Command) (i : Instr) :
    decode w = .instr i ↔ w = encode i ∧ i.wellFormed = true := by
  constructor
  · intro h
    obtain ⟨word, wf⟩ := encode_of_decode h
    exact ⟨word.symm, wf⟩
  · rintro ⟨rfl, wf⟩
    exact decode_encode i wf

/-! ### The operand of UPDATE in a word -/

theorem wellFormed_update_iff (hour : BitVec 5) (minute : BitVec 6) :
    (Instr.update hour minute).wellFormed = true ↔ hour.toNat ≤ 23 ∧ minute.toNat ≤ 59 := by
  simp [Instr.wellFormed, hourInRange, minuteInRange]

theorem hourOf_argOf (w : Command) : hourOf (argOf w) = w.extractLsb' 6 5 :=
  BitVec.extractLsb'_extractLsb'_of_le (by decide)

theorem minuteOf_argOf (w : Command) : minuteOf (argOf w) = w.extractLsb' 0 6 :=
  BitVec.extractLsb'_extractLsb'_of_le (by decide)

theorem updateHighOf_argOf (w : Command) : updateHighOf (argOf w) = w.extractLsb' 11 21 :=
  BitVec.extractLsb'_extractLsb'_of_le (by decide)

theorem hour_of_encode_update (hour : BitVec 5) (minute : BitVec 6) :
    (encode (.update hour minute)).extractLsb' 6 5 = hour := by
  rw [← hourOf_argOf, encode, argOf_commandWord, hourOf_updateOperand]

theorem minute_of_encode_update (hour : BitVec 5) (minute : BitVec 6) :
    (encode (.update hour minute)).extractLsb' 0 6 = minute := by
  rw [← minuteOf_argOf, encode, argOf_commandWord, minuteOf_updateOperand]

/-! ### A word that matches a row of the table -/

/-- The form of a row with the operand bits that a word carries for it (R69's patterns). -/
def Instr.withOperandOf (row : Instr) (w : Command) : Instr :=
  match row with
  | .stepSlow _ => .stepSlow (w.extractLsb' 0 32)
  | .stepAuto _ => .stepAuto (w.extractLsb' 0 32)
  | .stepFast _ => .stepFast (w.extractLsb' 0 32)
  | .update _ _ => .update (w.extractLsb' 6 5) (w.extractLsb' 0 6)
  | .home => .home
  | .calibrate => .calibrate
  | .isHome => .isHome
  | .isButton => .isButton

/-- A field that the mask covers is the field of the match. -/
theorem extractLsb'_of_and {w mask fixed : Command} (h : w &&& mask = fixed) (start len : Nat)
    (covered : mask.extractLsb' start len = BitVec.allOnes len) :
    w.extractLsb' start len = fixed.extractLsb' start len := by
  rw [← h, BitVec.extractLsb'_and, covered, BitVec.and_allOnes]

/-- Every mask of the table covers the top byte, and every match has `ZERO = 0` (R56, R69). -/
theorem tableMask_covers_topByte (row : Instr) :
    opcOf (tableMask row) = BitVec.allOnes 3 ∧ spdOf (tableMask row) = BitVec.allOnes 2 ∧
      zeroOf (tableMask row) = BitVec.allOnes 3 ∧ zeroOf (tableMatch row) = 0#3 := by
  cases row <;> simp only [tableMask, tableMatch] <;> decide

/-- A word that matches a row has the row's top byte over its own operand. -/
theorem eq_commandWord_of_row {w : Command} (row : Instr) (h : w &&& tableMask row = tableMatch row) :
    w = commandWord (opcOf (tableMatch row)) (spdOf (tableMatch row)) (argOf w) := by
  obtain ⟨opc_covered, spd_covered, zero_covered, zero⟩ := tableMask_covers_topByte row
  have opc : opcOf w = opcOf (tableMatch row) := extractLsb'_of_and h 37 3 opc_covered
  have spd : spdOf w = spdOf (tableMatch row) := extractLsb'_of_and h 35 2 spd_covered
  have wzero : zeroOf w = zeroOf (tableMatch row) := extractLsb'_of_and h 32 3 zero_covered
  rw [← opc, ← spd]
  exact (commandWord_of_fields w (wzero.trans zero)).symm

/-- A word that matches a row is the encoding of the row's form with the word's operand bits. -/
theorem eq_encode_of_row {w : Command} (row : Instr) (h : w &&& tableMask row = tableMatch row) :
    w = encode (row.withOperandOf w) := by
  have word := eq_commandWord_of_row row h
  cases row
  all_goals simp only [tableMask, tableMatch, opcOf, spdOf, BitVec.reduceExtractLsb'] at h word
  case stepSlow | stepAuto | stepFast => exact word
  case update =>
    have high : updateHighOf (argOf w) = 0#21 :=
      (updateHighOf_argOf w).trans (extractLsb'_of_and h 11 21 (by decide))
    have operand := updateOperand_of_fields (argOf w) high
    rw [hourOf_argOf, minuteOf_argOf] at operand
    rwa [← operand] at word
  case home | calibrate | isHome | isButton =>
    have arg : argOf w = 0#32 := extractLsb'_of_and h 0 32 (by decide)
    rwa [arg] at word

theorem decode_of_row {w : Command} (row : Instr) (h : w &&& tableMask row = tableMatch row)
    (wf : (row.withOperandOf w).wellFormed = true) : decode w = .instr (row.withOperandOf w) :=
  (decode_eq_instr_iff w _).mpr ⟨eq_encode_of_row row h, wf⟩

/-- A legal word matches a row: its instruction's, by the RowMatch family. -/
theorem row_of_decode {w : Command} {i : Instr} (h : decode w = .instr i) :
    w &&& 0xFF00000000#40 = 0x2000000000#40 ∨ w &&& 0xFF00000000#40 = 0x2800000000#40 ∨
    w &&& 0xFF00000000#40 = 0x3000000000#40 ∨
    (w &&& 0xFFFFFFF800#40 = 0x4000000000#40 ∧ (w.extractLsb' 6 5).toNat ≤ 23 ∧ (w.extractLsb' 0 6).toNat ≤ 59) ∨
    w = 0x6000000000#40 ∨ w = 0x8000000000#40 ∨ w = 0xA000000000#40 ∨ w = 0xC000000000#40 := by
  obtain ⟨rfl, wf⟩ := (decode_eq_instr_iff w i).mp h
  cases i with
  | stepSlow n => exact .inl (Laws.RowMatch.stepSlow n)
  | stepAuto n => exact .inr (.inl (Laws.RowMatch.stepAuto n))
  | stepFast n => exact .inr (.inr (.inl (Laws.RowMatch.stepFast n)))
  | update hour minute =>
    refine .inr (.inr (.inr (.inl ⟨Laws.RowMatch.update hour minute, ?_⟩)))
    rw [hour_of_encode_update, minute_of_encode_update]
    exact (wellFormed_update_iff hour minute).mp wf
  | home | calibrate | isHome | isButton => decide

/-- Settles O2. The eight rows are `decode_of_row`, where the operands that a row is named with do not count; that no other
word is legal is `row_of_decode`. -/
theorem tableRowsDecode : Obligations.TableRowsDecode := by
  unfold Obligations.TableRowsDecode
  intro w
  have slow := decode_of_row (w := w) (.stepSlow 0#32)
  have auto := decode_of_row (w := w) (.stepAuto 0#32)
  have fast := decode_of_row (w := w) (.stepFast 0#32)
  have update := decode_of_row (w := w) (.update 0#5 0#6)
  have range := wellFormed_update_iff (w.extractLsb' 6 5) (w.extractLsb' 0 6)
  refine ⟨(slow · rfl), (auto · rfl), (fast · rfl), fun h hour minute => update h (range.mpr ⟨hour, minute⟩),
    (decode_of_row .home · rfl), (decode_of_row .calibrate · rfl), (decode_of_row .isHome · rfl),
    (decode_of_row .isButton · rfl), fun ⟨_, h⟩ => row_of_decode h, ?_⟩
  rintro (h | h | h | ⟨h, operands⟩ | rfl | rfl | rfl | rfl)
  · exact ⟨_, slow h rfl⟩
  · exact ⟨_, auto h rfl⟩
  · exact ⟨_, fast h rfl⟩
  · exact ⟨_, update h (range.mpr operands)⟩
  · exact ⟨.home, by decide⟩
  · exact ⟨.calibrate, by decide⟩
  · exact ⟨.isHome, by decide⟩
  · exact ⟨.isButton, by decide⟩

end Sys2Proof

/-! The family 42_time_update.md: UPDATE and the inputs (R108), UPDATE twice (R98). -/

namespace Sys2Proof.Machine

/-! ### UPDATE by its cases -/

/-- An UPDATE with operands in range is its body and the response 0 (R96, R60). -/
theorem exec_update {hour : BitVec 5} {minute : BitVec 6} (s : State) (hh : hour.toNat ≤ 23) (hm : minute.toNat ≤ 59) :
    exec (.update hour minute) s =
      .next (respond (responseWord false 0#2) (updateBody (minuteOfCycle s.cfg.val hour minute) s)) :=
  (exec_next _ s).trans (congrArg Host.Outcome.next (if_pos ((wellFormed_update_iff hour minute).mpr ⟨hh, hm⟩)))

/-- An UPDATE with an operand out of range is answered as an illegal word (log 13). -/
theorem exec_update_out_of_range {hour : BitVec 5} {minute : BitVec 6} (s : State)
    (h : ¬ (hour.toNat ≤ 23 ∧ minute.toNat ≤ 59)) : exec (.update hour minute) s = .next (answerIllegal s) :=
  (exec_next _ s).trans (congrArg Host.Outcome.next (if_neg (mt (wellFormed_update_iff hour minute).mp h)))

theorem updateBody_unchanged {moc : Nat} {s : State} (h : moc = s.lastMinutes.toNat) : updateBody moc s = s := if_pos h

theorem updateBody_changed {moc : Nat} {s : State} (h : moc ≠ s.lastMinutes.toNat) : updateBody moc s = moveToMinute moc s :=
  if_neg h

/-! ### What takes no sample and does not depend on the inputs -/

/-- The state with other answers of the environment and other words presented (20_memory.md R47, 30_encoding.md R66). -/
def withInputs (home button : List Bool) (draws : Nat) (words : List Command) (s : State) : State :=
  { s with homeIn := home, buttonIn := button, draws := draws, presented := words }

/-- From `s`, the operation `f` makes no sample event, uses up no answer, and does the same with any other inputs. -/
structure IgnoresInputs (f : State → State) (s : State) : Prop where
  events : ∃ ev, (f s).trace = s.trace ++ ev ∧ ∀ e ∈ ev, isSample e = false
  homeIn : (f s).homeIn = s.homeIn
  buttonIn : (f s).buttonIn = s.buttonIn
  draws : (f s).draws = s.draws
  commutes : ∀ home button draws words, f (withInputs home button draws words s) = withInputs home button draws words (f s)

theorem IgnoresInputs.comp {f g : State → State} {s : State} (hf : IgnoresInputs f s) (hg : IgnoresInputs g (f s)) :
    IgnoresInputs (fun u => g (f u)) s where
  events := by
    obtain ⟨ev₁, trace₁, quiet₁⟩ := hf.events
    obtain ⟨ev₂, trace₂, quiet₂⟩ := hg.events
    exact ⟨ev₁ ++ ev₂, by rw [trace₂, trace₁, List.append_assoc], List.forall_mem_append.mpr ⟨quiet₁, quiet₂⟩⟩
  homeIn := hg.homeIn.trans hf.homeIn
  buttonIn := hg.buttonIn.trans hf.buttonIn
  draws := hg.draws.trans hf.draws
  commutes home button draws words := by rw [hf.commutes, hg.commutes]

/-- Only the values at `s` and at `s` with other inputs count. -/
theorem IgnoresInputs.congr {f g : State → State} {s : State} (hf : IgnoresInputs f s) (at_s : g s = f s)
    (at_inputs : ∀ home button draws words,
      g (withInputs home button draws words s) = f (withInputs home button draws words s)) :
    IgnoresInputs g s where
  events := at_s ▸ hf.events
  homeIn := at_s ▸ hf.homeIn
  buttonIn := at_s ▸ hf.buttonIn
  draws := at_s ▸ hf.draws
  commutes home button draws words := by rw [at_inputs, hf.commutes, at_s]

theorem id_ignoresInputs (s : State) : IgnoresInputs id s :=
  ⟨⟨[], by simp⟩, rfl, rfl, rfl, fun _ _ _ _ => rfl⟩

theorem respond_ignoresInputs (w : Response) (s : State) : IgnoresInputs (respond w) s :=
  ⟨⟨[], by simp⟩, rfl, rfl, rfl, fun _ _ _ _ => rfl⟩

theorem writePosition_ignoresInputs (pos moc : Nat) (s : State) : IgnoresInputs (writePosition pos moc) s :=
  ⟨⟨[], by simp⟩, rfl, rfl, rfl, fun _ _ _ _ => rfl⟩

/-- The events of a move are those of the Stepper Driver (40_stepper_driver.md R86). -/
theorem stepMotor_ignoresInputs (steps : Int) (speed : Speed) (s : State) : IgnoresInputs (stepMotor steps speed) s where
  events := ⟨_, (stepMotor_emits steps speed s).trace, fun e he => (driven_moveEvents _ _ _ _ e he).2⟩
  homeIn := by rw [stepMotor_eq]
  buttonIn := by rw [stepMotor_eq]
  draws := by rw [stepMotor_eq]
  commutes _ _ _ _ := by rw [stepMotor_eq, stepMotor_eq]; rfl

/-- The step count and the new position are read from registers that are no inputs (R99 to R103). -/
theorem moveToMinute_ignoresInputs (moc : Nat) (s : State) : IgnoresInputs (moveToMinute moc) s :=
  ((stepMotor_ignoresInputs _ .auto s).comp (writePosition_ignoresInputs _ moc _)).congr rfl fun _ _ _ _ => rfl

theorem updateBody_ignoresInputs (moc : Nat) (s : State) : IgnoresInputs (updateBody moc) s := by
  by_cases same : moc = s.lastMinutes.toNat
  · exact (id_ignoresInputs s).congr (updateBody_unchanged same) fun _ _ _ _ => updateBody_unchanged same
  · exact (moveToMinute_ignoresInputs moc s).congr (updateBody_changed same) fun _ _ _ _ => updateBody_changed same

/-! ### The commands STEP and UPDATE -/

/-- The command's meaning is an operation that ignores the inputs. -/
def CommandIgnoresInputs (i : Instr) (s : State) : Prop :=
  ∃ f : State → State, (∀ u, exec i u = .next (f u)) ∧ IgnoresInputs f s

/-- A command that is a move and a response (40_stepper_driver.md R74). -/
theorem commandIgnoresInputs_of_move {i : Instr} {steps : Int} {speed : Speed} {w : Response}
    (meaning : ∀ u, exec i u = .next (respond w (stepMotor steps speed u))) (s : State) : CommandIgnoresInputs i s :=
  ⟨_, meaning, (stepMotor_ignoresInputs steps speed s).comp (respond_ignoresInputs w _)⟩

theorem update_commandIgnoresInputs (hour : BitVec 5) (minute : BitVec 6) (s : State) :
    CommandIgnoresInputs (.update hour minute) s := by
  by_cases range : hour.toNat ≤ 23 ∧ minute.toNat ≤ 59
  · obtain ⟨hh, hm⟩ := range
    have body := updateBody_ignoresInputs (minuteOfCycle s.cfg.val hour minute) s
    exact ⟨_, fun u => exec_update u hh hm, (body.comp (respond_ignoresInputs _ _)).congr rfl fun _ _ _ _ => rfl⟩
  · exact ⟨answerIllegal, fun u => exec_update_out_of_range u range, respond_ignoresInputs _ s⟩

/-- Settles O25. Each of the four forms has a meaning built from operations that ignore the inputs: the move of the Stepper
Driver, the two position registers and the response. -/
theorem stepAndUpdateIgnoreInputs : Obligations.StepAndUpdateIgnoreInputs := by
  unfold Obligations.StepAndUpdateIgnoreInputs
  intro i s home button draws words form
  have command : CommandIgnoresInputs i s := by
    rcases form with ⟨n, rfl⟩ | ⟨n, rfl⟩ | ⟨n, rfl⟩ | ⟨hour, minute, rfl⟩
    · exact commandIgnoresInputs_of_move (exec_next (.stepSlow n)) s
    · exact commandIgnoresInputs_of_move (exec_next (.stepAuto n)) s
    · exact commandIgnoresInputs_of_move (exec_next (.stepFast n)) s
    · exact update_commandIgnoresInputs hour minute s
  obtain ⟨f, meaning, ignores⟩ := command
  obtain ⟨ev, trace, quiet⟩ := ignores.events
  have with_other_inputs : exec i (withInputs home button draws words s) =
      .next (withInputs home button draws words (f s)) := by
    rw [meaning, ignores.commutes]
  exact ⟨f s, ev, meaning s, trace, quiet, ignores.homeIn, ignores.buttonIn, ignores.draws, with_other_inputs⟩

/-! ### UPDATE twice -/

/-- The minute of the cycle is less than the cycle (R97). -/
theorem minuteOfCycle_lt (c : Configuration) (hour : BitVec 5) {minute : BitVec 6} (hm : minute.toNat ≤ 59) :
    minuteOfCycle c.val hour minute < minutesPerCycle c.val := by
  have := Nat.mod_lt hour.toNat (cycleHours_pos c)
  unfold minuteOfCycle minutesPerCycle
  omega

theorem moveToMinute_lastMinutes (moc : Nat) (s : State) : (moveToMinute moc s).lastMinutes = BitVec.ofNat 11 moc := rfl

theorem updateBody_cfg (moc : Nat) (s : State) : (updateBody moc s).cfg = s.cfg := by
  by_cases same : moc = s.lastMinutes.toNat
  · rw [updateBody_unchanged same]
  · rw [updateBody_changed same, moveToMinute, writePosition_cfg, stepMotor_eq]

/-- UPDATE leaves its own minute in `LAST_MINUTES` (R98, R103). -/
theorem updateBody_lastMinutes {moc : Nat} (h : moc < 2 ^ 11) (s : State) : (updateBody moc s).lastMinutes.toNat = moc := by
  by_cases same : moc = s.lastMinutes.toNat
  · rw [updateBody_unchanged same, same]
  · rw [updateBody_changed same, moveToMinute_lastMinutes, BitVec.toNat_ofNat, Nat.mod_eq_of_lt h]

/-- An UPDATE to the minute in `LAST_MINUTES` only responds (R98). -/
theorem exec_update_unchanged {hour : BitVec 5} {minute : BitVec 6} {s : State} (hh : hour.toNat ≤ 23)
    (hm : minute.toNat ≤ 59) (same : minuteOfCycle s.cfg.val hour minute = s.lastMinutes.toNat) :
    exec (.update hour minute) s = .next (respond (responseWord false 0#2) s) := by
  rw [exec_update s hh hm, updateBody_unchanged same]

/-- Settles O29. The first UPDATE leaves its minute in the register, in the same configuration; the second one finds it
there and only responds, which the first one did already. -/
theorem updateIsIdempotent : Obligations.UpdateIsIdempotent := by
  unfold Obligations.UpdateIsIdempotent
  intro hour minute s t hh hm
  refine ⟨fun same => exec_update_unchanged hh hm same, fun first => ?_⟩
  rw [exec_update s hh hm] at first
  cases first
  have fits := (minuteOfCycle_lt s.cfg hour hm).trans (minutesPerCycle_lt s.cfg)
  have found := updateBody_lastMinutes fits s
  refine exec_update_unchanged hh hm ?_
  rw [respond_cfg, updateBody_cfg, respond_lastMinutes, found]

end Sys2Proof.Machine

/-! The statements on the whole machine: encoding, invariant, steps and resets, moves, UPDATE, HOME, the status port and
CALIBRATE, in this order, each after the lemmas that it needs. -/

/-! ### Encoding: the two round trips -/

namespace Sys2Proof

/-- Settles O3. The decoder finds in the encoded word the fields that the encoder wrote (`decode_encode`). -/
theorem decodeEncode : Obligations.DecodeEncode := by
  unfold Obligations.DecodeEncode
  exact decode_encode

/-- Settles O4. Each ground of the decoder leaves one form, and its fields put the word together again
(`encode_of_decode`). -/
theorem encodeDecode : Obligations.EncodeDecode := by
  unfold Obligations.EncodeDecode
  intro w i legal
  exact encode_of_decode legal

end Sys2Proof

/-! ### The arithmetic of UPDATE on the position ring (42_time_update.md R99 to R103) -/

namespace Sys2Proof.Machine

theorem shortestPath_congr (S : Nat) (raw : Int) : (S : Int) ∣ shortestPath S raw - raw := by
  unfold shortestPath
  dsimp only
  split <;> split
  · exact ⟨0, by omega⟩
  · exact ⟨-1, by omega⟩
  · exact ⟨1, by omega⟩
  · exact ⟨0, by omega⟩

theorem shortestPath_of_short {S : Nat} {raw : Int} (short : raw.natAbs ≤ S / 2) : shortestPath S raw = raw := by
  unfold shortestPath
  dsimp only
  rw [if_neg (show ¬ raw > (S / 2 : Nat) by omega), if_neg (by omega)]

theorem natAbs_shortestPath_le {S : Nat} {raw : Int} (range : raw.natAbs < S) : (shortestPath S raw).natAbs ≤ S / 2 := by
  unfold shortestPath
  dsimp only
  split <;> split <;> omega

theorem natAbs_shortestPath_lt {S : Nat} {raw : Int} (range : raw.natAbs < S) (long : S / 2 < raw.natAbs) :
    (shortestPath S raw).natAbs < raw.natAbs :=
  Nat.lt_of_le_of_lt (natAbs_shortestPath_le range) long

theorem targetPosition_lt (c : Configuration) {moc : Nat} (h : moc < minutesPerCycle c.val) :
    targetPosition c.val moc < stepsPerCycle c.val :=
  Nat.div_lt_of_lt_mul (Nat.mul_lt_mul_of_pos_right h (stepsPerCycle_pos c))

/-- The move of UPDATE ends exactly on the target, since its length is the raw delta modulo `S` (R104). -/
theorem positionAfter_updateDelta (c : Configuration) {moc : Nat} (h : moc < minutesPerCycle c.val) (position : Nat) :
    positionAfter c.val position (updateDelta c.val moc position) = targetPosition c.val moc := by
  obtain ⟨k, hk⟩ := shortestPath_congr (stepsPerCycle c.val) ((targetPosition c.val moc : Int) - position)
  have sum : (position : Int) + updateDelta c.val moc position = targetPosition c.val moc + stepsPerCycle c.val * k := by
    unfold updateDelta; omega
  have range := targetPosition_lt c h
  unfold positionAfter
  rw [sum, Int.add_mul_emod_self_left, Int.emod_eq_of_lt (by omega) (by omega), Int.toNat_natCast]

/-- The move of UPDATE and both registers, as a whole (R102, R103). -/
theorem moveToMinute_eq (moc : Nat) (s : State) :
    moveToMinute moc s = { s with
      phaseIdx := phaseIdxAfter s.cfg.val s.phaseIdx (updateDelta s.cfg.val moc s.lastPosition.toNat)
      out := releasedBank s.cfg.val s.out
      trace := s.trace ++ moveEvents s.cfg.val (delayUnits .auto) s.phaseIdx.toNat
        (updateDelta s.cfg.val moc s.lastPosition.toNat)
      lastPosition := BitVec.ofNat 32 (positionAfter s.cfg.val s.lastPosition.toNat
        (updateDelta s.cfg.val moc s.lastPosition.toNat))
      lastMinutes := BitVec.ofNat 11 moc } :=
  congrArg (writePosition _ moc) (stepMotor_eq _ .auto s)

theorem toNat_lastMinutes_moveToMinute (s : State) {moc : Nat} (h : moc < minutesPerCycle s.cfg.val) :
    (moveToMinute moc s).lastMinutes.toNat = moc := by
  have := minutesPerCycle_lt s.cfg
  rw [moveToMinute_lastMinutes, BitVec.toNat_ofNat, Nat.mod_eq_of_lt (by omega)]

theorem toNat_lastPosition_moveToMinute (s : State) {moc : Nat} (h : moc < minutesPerCycle s.cfg.val) :
    (moveToMinute moc s).lastPosition.toNat = targetPosition s.cfg.val moc := by
  have := targetPosition_lt s.cfg h
  have := stepsPerCycle_lt s.cfg
  rw [moveToMinute_eq, positionAfter_updateDelta s.cfg h, BitVec.toNat_ofNat, Nat.mod_eq_of_lt (by omega)]

end Sys2Proof.Machine

/-! ### The invariant of 10_state.md R32 -/

namespace Sys2Proof.Machine

/-- R32 without its clause on `BUSY`: what holds all through a command. -/
def RegistersInv (s : State) : Prop := PositionInv s ∧ OutputsReleased s ∧ StatusInv s

theorem coreInv_iff (s : State) : CoreInv s ↔ RegistersInv s ∧ s.busy = s.calibrating := by
  unfold RegistersInv
  constructor
  · rintro ⟨position, outputs, status, busy⟩
    exact ⟨⟨position, outputs, status⟩, busy⟩
  · rintro ⟨⟨position, outputs, status⟩, busy⟩
    exact ⟨position, outputs, status, busy⟩

/-- The registers at 0 and the outputs released, in any configuration (70_reset_and_hazards.md R161). -/
theorem registersInv_of_reset {s : State} (idx : s.phaseIdx = 0#3) (minutes : s.lastMinutes = 0#11)
    (position : s.lastPosition = 0#32) (hstate : s.hstate = .idle) (status : s.status = 0#2)
    (outputs : OutputsReleased s) : RegistersInv s := by
  refine ⟨⟨?_, ?_, ?_, ?_⟩, outputs, ?_, ?_⟩
  · rw [idx]; exact phaseCount_pos _
  · rw [minutes]; exact minutesPerCycle_pos s.cfg
  · rw [position]; exact stepsPerCycle_pos s.cfg
  · rw [position, minutes]; simp
  · rw [hstate]; rfl
  · rw [hstate, status]; rfl

theorem registersInv_stepMotor (steps : Int) (speed : Speed) {s : State} (h : RegistersInv s) :
    RegistersInv (stepMotor steps speed s) := by
  obtain ⟨⟨idx, minutes, position, target⟩, -, status⟩ := h
  rw [stepMotor_eq]
  refine ⟨⟨?_, minutes, position, target⟩, releasedBank_and _ _, status⟩
  rw [toNat_phaseIdxAfter _ _ _ idx]
  exact phaseAfter_lt _ _ _

theorem registersInv_moveToMinute {s : State} (h : RegistersInv s) {moc : Nat} (range : moc < minutesPerCycle s.cfg.val) :
    RegistersInv (moveToMinute moc s) := by
  have cfg : (moveToMinute moc s).cfg = s.cfg := by rw [moveToMinute_eq]
  obtain ⟨⟨idx, -⟩, outputs, status⟩ :=
    registersInv_stepMotor (updateDelta s.cfg.val moc s.lastPosition.toNat) .auto h
  refine ⟨⟨idx, ?_, ?_, ?_⟩, outputs, status⟩ <;>
    simp only [cfg, toNat_lastMinutes_moveToMinute s range, toNat_lastPosition_moveToMinute s range]
  · exact range
  · exact targetPosition_lt s.cfg range
  · rfl

theorem registersInv_updateBody {s : State} (h : RegistersInv s) {moc : Nat} (range : moc < minutesPerCycle s.cfg.val) :
    RegistersInv (updateBody moc s) := by
  by_cases same : moc = s.lastMinutes.toNat
  · rwa [updateBody_unchanged same]
  · rw [updateBody_changed same]; exact registersInv_moveToMinute h range

/-- Wherever HOME ends, the position state is untouched or zeroed, and the motor rests (43_homing.md R118, R119). -/
theorem registersInv_homeBody {s : State} (h : RegistersInv s) : RegistersInv (homeBody s) := by
  obtain ⟨⟨-, minutes, position, target⟩, -, -⟩ := h
  obtain ⟨cfg, -⟩ := homeBody_keeps s
  obtain ⟨idx, out⟩ := homeBody_rests s
  obtain ⟨status, rest, registers⟩ := homeBody_registers s
  refine ⟨?_, ?_, rest, status⟩
  · unfold PositionInv
    rw [cfg]
    rcases registers with ⟨hp, hm⟩ | ⟨hp, hm⟩ <;> rw [hp, hm]
    · exact ⟨idx, minutes, position, target⟩
    · exact ⟨idx, minutesPerCycle_pos s.cfg, stepsPerCycle_pos s.cfg, by simp⟩
  · unfold OutputsReleased
    rw [out, cfg]
    exact releasedBank_and _ _

theorem coreInv_calibratePass {s : State} (h : RegistersInv s) : CoreInv (calibratePass s) := by
  refine calibratePass_rule (Q := RegistersInv) ?_ ?_ ?_ ?_ ?_ (registersInv_homeBody h)
  · exact fun _ hu => hu
  · exact fun _ _ hu => hu
  · exact fun k _ hu => registersInv_stepMotor k .fast hu
  · exact fun u hu => (coreInv_iff (endCalibrate u)).mpr ⟨hu, rfl⟩
  · exact fun u hu => (coreInv_iff (stayInFlight u)).mpr ⟨hu, rfl⟩

/-- Every command ends in the invariant of R32. -/
theorem coreInv_exec {i : Instr} {s t : State} (h : RegistersInv s) (he : exec i s = .next t) : CoreInv t := by
  have responds {u : State} (w : Response) (hu : RegistersInv u) : CoreInv (respond w u) :=
    (coreInv_iff (respond w u)).mpr ⟨hu, rfl⟩
  cases i with
  | stepSlow n | stepAuto n | stepFast n =>
    cases (exec_next _ s).symm.trans he
    exact responds _ (registersInv_stepMotor _ _ h)
  | update hour minute =>
    by_cases range : hour.toNat ≤ 23 ∧ minute.toNat ≤ 59
    · cases (exec_update s range.1 range.2).symm.trans he
      exact responds _ (registersInv_updateBody h (minuteOfCycle_lt s.cfg hour range.2))
    · cases (exec_update_out_of_range s range).symm.trans he
      exact responds _ h
  | home => cases (exec_next _ s).symm.trans he; exact responds _ (registersInv_homeBody h)
  | calibrate => cases (exec_next _ s).symm.trans he; exact coreInv_calibratePass h
  | isHome | isButton => cases (exec_next _ s).symm.trans he; exact responds _ h

theorem coreInv_resetEvent (s : State) : CoreInv (resetEvent s) :=
  (coreInv_iff _).mpr ⟨registersInv_of_reset rfl rfl rfl rfl rfl (releasedBank_and s.cfg.val s.out), rfl⟩

theorem coreInv_abandon (made : List Event) (seen : List StatusShown) (s : State) : CoreInv (abandon made seen s) :=
  coreInv_resetEvent (useAnswers made s)

/-- A reset pulse keeps the invariant that the whole command would end in. -/
theorem coreInv_underReset {u t : State} {ev : List Event} (he : Emits u t ev) (h : CoreInv t) :
    CoreInv (underReset u t) := by
  rcases underReset_cases he.trace with ⟨k, -, -, cut⟩ | ⟨r, whole⟩
  · rw [cut]; exact coreInv_abandon _ _ _
  · rw [whole]; exact h

theorem coreInv_busyStep {s : State} (h : CoreInv s) : CoreInv (busyStep s) := by
  obtain ⟨registers, -⟩ := (coreInv_iff s).mp h
  obtain ⟨ev, emits⟩ := calibratePass_emits (waitStep s)
  unfold busyStep
  split
  · exact coreInv_underReset emits (coreInv_calibratePass registers)
  · exact h

/-- Settles O42. By the kinds of step: a reset has the invariant whatever came before, a wait and an illegal word touch none
of its registers, and a command or a pass ends in it (`coreInv_exec`, `coreInv_calibratePass`), cut short or not. -/
theorem invariantKept : Obligations.InvariantKept := by
  unfold Obligations.InvariantKept
  intro s t h hstep
  obtain ⟨registers, -⟩ := (coreInv_iff s).mp h
  rcases step_cases hstep with
    ⟨-, rfl⟩ | ⟨-, -, rfl⟩ | ⟨-, -, -, rfl⟩ | ⟨-, -, -, -, -, -, -, rfl⟩ | ⟨-, -, -, -, i, u, -, -, he, rfl⟩
  · exact coreInv_resetEvent s
  · exact coreInv_busyStep h
  · exact h
  · exact (coreInv_iff _).mpr ⟨registers, rfl⟩
  · obtain ⟨ev, emits⟩ := exec_emits i (accept s) u he
    exact coreInv_underReset emits (coreInv_exec (s := accept s) registers he)

/-- Settles O15. The reset state has every register at 0 and the whole bank at 0. -/
theorem invariantAtReset : Obligations.InvariantAtReset := by
  unfold Obligations.InvariantAtReset
  intro c
  have outputs : OutputsReleased (State.resetWith c) := BitVec.zero_and
  exact ⟨(coreInv_iff _).mpr ⟨registersInv_of_reset rfl rfl rfl rfl rfl outputs, rfl⟩, rfl, rfl⟩

end Sys2Proof.Machine

/-! ### The step by its cases: reset, acceptance, a pass in flight, a wait (30_encoding.md R66,
70_reset_and_hazards.md R161) -/

namespace Sys2Proof.Machine

theorem step_of_reset {s : State} (pin : s.resetPin = true) : step s = .next (resetEvent s) := if_pos pin

theorem step_of_busy {s : State} (pin : s.resetPin = false) (busy : s.busy = true) : step s = .next (busyStep s) := by
  simp [step, pin, busy]

theorem step_of_ready {s : State} (pin : s.resetPin = false) (busy : s.busy = false) : step s = readyStep s := by
  simp [step, pin, busy]

theorem readyStep_of_none {s : State} (none : s.presented = []) : readyStep s = .next (waitStep s) := by
  simp [readyStep, none]

theorem readyStep_of_word {s : State} {w : Command} {rest : List Command} (word : s.presented = w :: rest) :
    readyStep s = cutShort (accept s) (runWord w (accept s)) := by
  simp [readyStep, word]

theorem runWord_of_instr {w : Command} {i : Instr} (legal : decode w = .instr i) (s : State) : runWord w s = exec i s := by
  simp [runWord, legal]

theorem runWord_of_illegal {w : Command} {why : IllegalWord} (illegal : decode w = .illegal why) (s : State) :
    runWord w s = .next (answerIllegal s) := by
  simp [runWord, illegal]

theorem cutShort_next (u t : State) : cutShort u (.next t) = .next (underReset u t) := rfl

theorem step_of_instr {s : State} {w : Command} {rest : List Command} {i : Instr} (pin : s.resetPin = false)
    (busy : s.busy = false) (word : s.presented = w :: rest) (legal : decode w = .instr i) :
    step s = cutShort (accept s) (exec i (accept s)) := by
  rw [step_of_ready pin busy, readyStep_of_word word, runWord_of_instr legal]

theorem accept_eq {s : State} {w : Command} {rest : List Command} (word : s.presented = w :: rest) :
    accept s = { s with
      busy := true, presented := rest, response := none, trace := [], statusSeen := [⟨0, s.hstate, s.status⟩] } := by
  unfold accept
  rw [word]
  rfl

/-- Without a reset pulse the command runs whole. -/
theorem cutShort_exec_of_none {u : State} (quiet : u.resetAfter = none) (i : Instr) : cutShort u (exec i u) = exec i u := by
  rw [exec_next, cutShort_next, underReset_none quiet]

/-- A CALIBRATE in flight goes on with its next pass, under a reset pulse that may cut it short. -/
theorem step_in_flight {s : State} (pin : s.resetPin = false) (busy : s.busy = true) (flight : s.calibrating = true) :
    step s = .next (underReset (waitStep s) (resumeCalibrate s)) := by
  rw [step_of_busy pin busy, busyStep, if_pos flight]

/-- Settles O5. With no reset pulse due, what the accepted word runs is the outcome of the step. -/
theorem stepRunsDecodedInstruction : Obligations.StepRunsDecodedInstruction := by
  unfold Obligations.StepRunsDecodedInstruction
  intro s w rest i pin quiet busy word legal
  rw [step_of_instr pin busy word legal, cutShort_exec_of_none (u := accept s) quiet, accept_eq word]

theorem tableWord_toNat (w : Command) : tableWord 40 w.toNat = w := by
  unfold tableWord
  rw [Nat.mod_eq_of_lt w.isLt, BitVec.ofNat_toNat, BitVec.setWidth_eq]

/-- Settles O6. The placed word is the instruction's encoding, which decodes to it, and nothing stands in the way of its
acceptance. -/
theorem fetchedWordRuns : Obligations.FetchedWordRuns := by
  unfold Obligations.FetchedWordRuns State.withFetchWord
  intro s i wf
  rw [tableWord_toNat]
  exact stepRunsDecodedInstruction (placeWord (encode i) s) _ _ i rfl rfl rfl rfl (decode_encode i wf)

/-- Settles O7. The answer to an illegal word makes no event, so that no reset pulse cuts it short. -/
theorem illegalWordHasNoEffect : Obligations.IllegalWordHasNoEffect := by
  unfold Obligations.IllegalWordHasNoEffect
  intro s w rest why pin busy word illegal
  rw [step_of_ready pin busy, readyStep_of_word word, runWord_of_illegal illegal, cutShort_next,
    underReset_silent (u := accept s) (t := answerIllegal (accept s)) rfl rfl, accept_eq word]
  rfl

/-- Settles O8, by the arm of UPDATE for operands out of range. -/
theorem updateOutOfRangeIsIllegal : Obligations.UpdateOutOfRangeIsIllegal := by
  unfold Obligations.UpdateOutOfRangeIsIllegal
  intro s hour minute range
  exact exec_update_out_of_range s (by omega)

/-- Settles O10. A ready CORE with nothing on the port waits, which only clears the response. -/
theorem waitsForACommand : Obligations.WaitsForACommand := by
  unfold Obligations.WaitsForACommand
  intro s pin busy nothing
  exact (step_of_ready pin busy).trans (readyStep_of_none nothing)

/-- Settles O11. A step is a reset event, a busy step, a wait, or what an accepted word runs; `exec_next` gives each
command's next state. -/
theorem noStepStops : Obligations.NoStepStops := by
  unfold Obligations.NoStepStops
  intro s
  cases pin : s.resetPin with
  | true => exact ⟨_, step_of_reset pin⟩
  | false =>
  cases busy : s.busy with
  | true => exact ⟨_, step_of_busy pin busy⟩
  | false =>
  rw [step_of_ready pin busy]
  cases word : s.presented with
  | nil => exact ⟨_, readyStep_of_none word⟩
  | cons w rest =>
  rw [readyStep_of_word word]
  cases decoded : decode w with
  | instr i => exact ⟨_, by rw [runWord_of_instr decoded, exec_next, cutShort_next]⟩
  | illegal why => exact ⟨_, by rw [runWord_of_illegal decoded, cutShort_next]⟩

/-- Settles O13. The reset input comes before all else, and the reset event is the state that is written out. -/
theorem resetLeavesValues : Obligations.ResetLeavesValues := by
  unfold Obligations.ResetLeavesValues
  intro s pin
  exact step_of_reset pin

/-- Settles O39. With no reset pulse due, the pass in flight is what `exec` does for CALIBRATE. -/
theorem calibrateResumes : Obligations.CalibrateResumes := by
  unfold Obligations.CalibrateResumes
  intro s pin quiet busy flight
  rw [step_in_flight pin busy flight, underReset_none (u := waitStep s) quiet]
  rfl

/-! ### What every step leaves unchanged -/

/-- What a step keeps of the state in which its command began: the configuration, the presented words and the bank bits of
other users (00_scope.md R7, 30_encoding.md R66, 20_memory.md R44). -/
structure Keeps (s t : State) : Prop where
  cfg : t.cfg = s.cfg
  presented : t.presented = s.presented
  other : t.out &&& ~~~(allMask s.cfg.val) = s.out &&& ~~~(allMask s.cfg.val)

theorem keeps_underReset {u t : State} {ev : List Event} (h : Emits u t ev) : Keeps u (underReset u t) := by
  rcases underReset_cases h.trace with ⟨k, -, -, cut⟩ | ⟨r, whole⟩
  · rw [cut]; exact ⟨rfl, rfl, releasedBank_other _ _⟩
  · rw [whole]; exact ⟨h.cfg, h.presented, h.other⟩

theorem keeps_busyStep (s : State) : Keeps s (busyStep s) := by
  unfold busyStep
  split
  · obtain ⟨ev, emits⟩ := calibratePass_emits (waitStep s)
    obtain ⟨cfg, presented, other⟩ := keeps_underReset emits
    exact ⟨cfg, presented, other⟩
  · exact ⟨rfl, rfl, rfl⟩

/-- Every step keeps the configuration and the other bank bits; acceptance is what takes a word. -/
theorem step_frame {s t : State} (h : step s = .next t) :
    t.cfg = s.cfg ∧ t.out &&& ~~~(allMask s.cfg.val) = s.out &&& ~~~(allMask s.cfg.val) := by
  rcases step_cases h with
    ⟨-, rfl⟩ | ⟨-, -, rfl⟩ | ⟨-, -, -, rfl⟩ | ⟨-, -, -, -, -, -, -, rfl⟩ | ⟨-, -, -, -, i, u, -, -, he, rfl⟩
  · exact ⟨rfl, releasedBank_other _ _⟩
  · exact ⟨(keeps_busyStep s).cfg, (keeps_busyStep s).other⟩
  · exact ⟨rfl, rfl⟩
  · exact ⟨rfl, rfl⟩
  · obtain ⟨ev, emits⟩ := exec_emits i (accept s) u he
    obtain ⟨cfg, -, other⟩ := keeps_underReset emits
    exact ⟨cfg, other⟩

/-- Settles O9. Of the kinds of step, those of a busy CORE are the reset event, a pass and a wait, and each keeps the
presented words. -/
theorem busyAcceptsNothing : Obligations.BusyAcceptsNothing := by
  unfold Obligations.BusyAcceptsNothing
  intro s t busy h
  have not_ready (ready : s.busy = false) : False := by simp [ready] at busy
  rcases step_cases h with ⟨-, rfl⟩ | ⟨-, -, rfl⟩ | ⟨-, ready, -⟩ | ⟨-, ready, -⟩ | ⟨-, ready, -⟩
  · rfl
  · exact (keeps_busyStep s).presented
  · exact (not_ready ready).elim
  · exact (not_ready ready).elim
  · exact (not_ready ready).elim

/-- Settles O23, by the frame of a step. -/
theorem otherBankBitsKept : Obligations.OtherBankBitsKept := by
  unfold Obligations.OtherBankBitsKept
  intro s t h
  exact (step_frame h).2

/-- Settles O43, by the frame of a step. -/
theorem configurationNeverChanges : Obligations.ConfigurationNeverChanges := by
  unfold Obligations.ConfigurationNeverChanges
  intro s t h
  exact (step_frame h).1

/-- Settles O24. The events that a command adds have their samples where the outputs are released (`exec_emits`), and the
trace after the old one is those events. -/
theorem samplesOnlyWhenReleased : Obligations.SamplesOnlyWhenReleased := by
  unfold Obligations.SamplesOnlyWhenReleased
  intro i s t outputs he before after e trace sample
  obtain ⟨ev, emits⟩ := exec_emits i s t he
  obtain ⟨-, samples⟩ := emits.released outputs
  rw [emits.trace, List.append_assoc] at trace
  exact samples before after e (List.append_cancel_left trace) sample

/-! ### The answers of the commands -/

theorem calibratePass_answers (s : State) :
    ((calibratePass s).busy = false ∧ (calibratePass s).calibrating = false ∧ (calibratePass s).response = some 0b0000#4) ∨
    ((calibratePass s).busy = true ∧ (calibratePass s).calibrating = true ∧ (calibratePass s).response = s.response) := by
  obtain ⟨-, -, -, -, -, -, response, -⟩ := homeBody_keeps s
  refine calibratePass_rule (Q := fun u => u.response = s.response)
    (P := fun t => (t.busy = false ∧ t.calibrating = false ∧ t.response = some 0b0000#4) ∨
      (t.busy = true ∧ t.calibrating = true ∧ t.response = s.response)) ?_ ?_ ?_ ?_ ?_ response
  · exact fun _ h => h
  · exact fun _ _ h => h
  · exact fun _ _ h => by rw [stepMotor_eq]; exact h
  · exact fun _ _ => .inl ⟨rfl, rfl, by rw [endCalibrate_response]; decide⟩
  · exact fun _ h => .inr ⟨rfl, rfl, h⟩

/-- A response word has its bit 2 at 0 and its `ILLEGAL` bit where R63 puts it. -/
theorem responseWord_bits (illegal : Bool) (val : BitVec 2) :
    (responseWord illegal val).getLsbD 2 = false ∧ (responseWord illegal val).getLsbD 3 = illegal := by
  revert illegal val
  decide

/-- Every command but CALIBRATE ends in a response, with `ILLEGAL` for the operands out of range of an UPDATE and for
nothing else (R63; log 13). -/
theorem exec_responds {i : Instr} (s : State) (h : i ≠ .calibrate) :
    ∃ val u, exec i s = .next (respond (responseWord (!i.wellFormed) val) u) := by
  cases i with
  | stepSlow n | stepAuto n | stepFast n | home | isHome | isButton => exact ⟨_, _, exec_next _ s⟩
  | update hour minute =>
    by_cases range : hour.toNat ≤ 23 ∧ minute.toNat ≤ 59
    · rw [(wellFormed_update_iff hour minute).mpr range]
      exact ⟨_, _, exec_update s range.1 range.2⟩
    · rw [Bool.eq_false_iff.mpr (mt (wellFormed_update_iff hour minute).mp range)]
      exact ⟨_, _, exec_update_out_of_range s range⟩
  | calibrate => exact (h rfl).elim

/-- Settles O12. CALIBRATE is `calibratePass_answers`, every other command `exec_responds`. -/
theorem everyCommandAnswers : Obligations.EveryCommandAnswers := by
  unfold Obligations.EveryCommandAnswers
  intro i s
  by_cases calibrate : i = .calibrate
  · subst calibrate
    exact ⟨_, exec_next _ s, fun h => (h rfl).elim, fun _ => calibratePass_answers s⟩
  · obtain ⟨val, u, he⟩ := exec_responds s calibrate
    obtain ⟨bit2, bit3⟩ := responseWord_bits (!i.wellFormed) val
    exact ⟨_, he, fun _ => ⟨rfl, rfl, _, rfl, bit2, bit3⟩, fun h => (calibrate h).elim⟩

/-! ### A reset pulse in the middle of a command -/

/-- What the pulse leaves of a command that has made `k` of the events `ev` (70_reset_and_hazards.md R161). -/
theorem abandon_take {ev : List Event} {k : Nat} (hk : k < ev.length) (seen : List StatusShown) (s : State) :
    abandon (ev.take k) seen s = { s with
      phaseIdx := 0#3, lastMinutes := 0#11, lastPosition := 0#32, hstate := .idle, status := 0#2, busy := false,
      out := releasedBank s.cfg.val s.out, calibrating := false, response := none, resetAfter := none,
      homeIn := s.homeIn.drop ((ev.take k).filter isHomeSample).length
      buttonIn := s.buttonIn.drop ((ev.take k).filter isButtonSample).length
      draws := s.draws + (((ev.take k).filter isHomeSample).length - s.homeIn.length) +
        (((ev.take k).filter isButtonSample).length - s.buttonIn.length)
      trace := s.trace ++ ev.take k
      statusSeen := seen.filter fun e => e.made ≤ s.trace.length + k } := by
  unfold abandon
  rw [List.length_take_of_le (Nat.le_of_lt hk)]
  rfl

theorem step_cut {s u : State} {w : Command} {rest : List Command} {i : Instr} {k : Nat} (pin : s.resetPin = false)
    (after : s.resetAfter = some k) (busy : s.busy = false) (word : s.presented = w :: rest) (legal : decode w = .instr i)
    (whole : exec i (accept s) = .next u) (hk : k < u.trace.length) :
    step s = .next (abandon (u.trace.take k) u.statusSeen (accept s)) := by
  have trace : u.trace = (accept s).trace ++ u.trace := rfl
  rw [step_of_instr pin busy word legal, whole, cutShort_next, underReset_cut (u := accept s) after trace hk]

/-- Settles O14. The command begins with an empty trace, so that its events are the trace it leaves; the pulse either cuts
it short after `k` of them or waits for the rest. -/
theorem resetAbandonsTheCommand : Obligations.ResetAbandonsTheCommand := by
  unfold Obligations.ResetAbandonsTheCommand
  intro s u w rest i k pin after busy word legal whole
  rw [← accept_eq word] at whole
  refine ⟨fun hk => ?_, fun hk => ?_⟩
  · rw [step_cut pin after busy word legal whole hk, abandon_take hk, accept_eq word]
    simp only [List.length_nil, Nat.zero_add, List.nil_append]
  · have trace : u.trace = (accept s).trace ++ u.trace := rfl
    rw [step_of_instr pin busy word legal, whole, cutShort_next, underReset_later (u := accept s) after trace hk]

/-- Settles O49. A pass in flight begins with the trace of the passes before it and is cut as a command is. -/
theorem resetAbandonsCalibrateInFlight : Obligations.ResetAbandonsCalibrateInFlight := by
  unfold Obligations.ResetAbandonsCalibrateInFlight
  intro s u ev k pin after busy flight whole trace
  have pass : resumeCalibrate s = u := Host.Outcome.next.inj whole
  rw [step_in_flight pin busy flight, pass]
  refine ⟨fun hk => ?_, fun hk => ?_⟩
  · rw [underReset_cut (u := waitStep s) after trace hk, abandon_take hk]
    rfl
  · rw [underReset_later (u := waitStep s) after trace hk]

/-- Settles O48. What the cut keeps of the record is what was shown until `k` events were made, and an earlier look at the
record does not tell it from the whole one (`shownBy_shownBy`). -/
theorem statusPortUntilReset : Obligations.StatusPortUntilReset := by
  unfold Obligations.StatusPortUntilReset
  intro s t u w rest i k pin after busy word legal whole hk hstep
  rw [← accept_eq word] at whole
  cases (step_cut pin after busy word legal whole hk).symm.trans hstep
  have made : (u.trace.take k).length = k := List.length_take_of_le (Nat.le_of_lt hk)
  refine ⟨fun j hj => ?_, fun j hj => ?_, rfl⟩
  · unfold statusDuring
    rw [abandon_trace, abandon_statusSeen, accept_trace, List.length_nil, List.nil_append, made, Nat.zero_add,
      shownBy_shownBy hj, if_pos hj, if_pos (by omega)]
  · exact statusDuring_later (by rw [abandon_trace, accept_trace, List.nil_append, made]; exact hj)

end Sys2Proof.Machine

/-! ### Words, codes and answers that the spec writes out (30_encoding.md, 41_home_sensor_port.md) -/

namespace Sys2Proof.Machine

/-- Settles O1, by running the decoder on the fourteen words. -/
theorem decodeOfWrittenWords : Obligations.DecodeOfWrittenWords := by
  unfold Obligations.DecodeOfWrittenWords
  decide

/-- Settles O46. The codes are those of the two tables. -/
theorem statusPortCodes : Obligations.StatusPortCodes := by
  unfold Obligations.StatusPortCodes
  intro s
  have busy : BitVec.ofBool s.busy = if s.busy then 1#1 else 0#1 := by cases s.busy <;> rfl
  exact ⟨by rw [statusView, busy], rfl, rfl, rfl, rfl, rfl, rfl, rfl, rfl⟩

/-- The answer of IS_HOME on the response port, from the raw level (41_home_sensor_port.md R90). -/
theorem responseWord_isHome (raw no : Bool) :
    responseWord false (boolVal (xor raw no)) = if raw = no then 0b0000#4 else 0b0001#4 := by
  revert raw no
  decide

/-- IS_HOME with the level, the answers left and the counter that its sample gives. -/
theorem exec_isHome (s : State) : exec .isHome s = .next { s with
    homeIn := s.homeIn.tail, draws := drawsAfter s.homeIn s.draws, trace := s.trace ++ [.homeSample (homeRaw s)],
    busy := false, calibrating := false,
    response := some (if homeRaw s = s.cfg.val.homeNo then 0b0000#4 else 0b0001#4) } := by
  rw [← responseWord_isHome, exec_next]
  rfl

/-- Settles O26. The raw level is the placed answer, or the free value when none is placed. -/
theorem isHomeResult : Obligations.IsHomeResult := by
  unfold Obligations.IsHomeResult
  intro s
  refine ⟨fun raw rest placed => ?_, fun none => ⟨homeRaw s, ?_⟩⟩
  · have level : homeRaw s = raw := by rw [homeRaw, placed, nextAnswer]
    rw [exec_isHome, level, placed]
    rfl
  · rw [exec_isHome]
    simp only [none, List.tail_nil, drawsAfter]

/-- The answer of IS_BUTTON on the response port (41_home_sensor_port.md R91). -/
theorem responseWord_isButton (b : Bool) : responseWord false (boolVal b) = if b then 0b0001#4 else 0b0000#4 := by
  revert b
  decide

theorem exec_isButton (s : State) : exec .isButton s = .next { s with
    buttonIn := s.buttonIn.tail, draws := drawsAfter s.buttonIn s.draws,
    trace := s.trace ++ [.buttonSample (buttonLevel s)], busy := false, calibrating := false,
    response := some (if buttonLevel s then 0b0001#4 else 0b0000#4) } := by
  rw [← responseWord_isButton, exec_next]
  rfl

/-- Settles O27. The level is the placed answer, or the free value when none is placed. -/
theorem isButtonResult : Obligations.IsButtonResult := by
  unfold Obligations.IsButtonResult
  intro s
  refine ⟨fun b rest placed => ?_, fun none => ⟨buttonLevel s, ?_⟩⟩
  · have level : buttonLevel s = b := by rw [buttonLevel, placed, nextAnswer]
    rw [exec_isButton, level, placed]
    rfl
  · rw [exec_isButton]
    simp only [none, List.tail_nil, drawsAfter]

/-! ### The phase table, the masks and the delays -/

/-- Settles O19. The pattern depends on the two flags alone; each pair of them leaves a table of 4 or 8 entries. -/
theorem phaseTableStructure : Obligations.PhaseTableStructure := by
  unfold Obligations.PhaseTableStructure
  intro p
  refine ⟨fun full => ?_, fun half => ?_⟩
  · cases reversed : p.reversed <;> simp only [phasePattern, phaseTable, phaseCount, full, reversed] <;> decide
  · cases reversed : p.reversed <;> simp only [phasePattern, phaseTable, phaseCount, half, reversed] <;> decide

/-- Settles O20. The mask is the union of the four pins' bits, each of which is `getLsbD_pinBit`. -/
theorem pinMaskBits : Obligations.PinMaskBits := by
  unfold Obligations.PinMaskBits
  intro p pat b
  simp only [pinMask, BitVec.getLsbD_or, getLsbD_pinBit, Bool.or_eq_true, Bool.and_eq_true, decide_eq_true_eq, or_assoc]

theorem mergeDelay_ne_nil (d : Nat) (t : List Event) : mergeDelay d t ≠ [] := by
  unfold mergeDelay
  split <;> simp

/-- Only the last event of a trace can merge with a delay. -/
theorem mergeDelay_cons (d : Nat) (e : Event) {t : List Event} (h : t ≠ []) :
    mergeDelay d (e :: t) = e :: mergeDelay d t := by
  obtain ⟨e', rest, rfl⟩ := List.exists_cons_of_ne_nil h
  cases e <;> rfl

theorem mergeDelay_mergeDelay (a b : Nat) (t : List Event) : mergeDelay b (mergeDelay a t) = mergeDelay (a + b) t := by
  induction t with
  | nil => rfl
  | cons e rest ih =>
    by_cases last : rest = []
    · subst last
      cases e with
      | delay c => exact congrArg (fun d => [Event.delay d]) (Nat.add_assoc c a b)
      | set | clr | homeSample | buttonSample => rfl
    · rw [mergeDelay_cons a e last, mergeDelay_cons b e (mergeDelay_ne_nil a rest), ih, mergeDelay_cons _ e last]

theorem delayedTrace_delayedTrace (a b : Nat) (t : List Event) :
    delayedTrace b (delayedTrace a t) = delayedTrace (a + b) t := by
  unfold delayedTrace
  by_cases ha : a = 0
  · simp [ha]
  · by_cases hb : b = 0
    · simp [hb]
    · simp [ha, hb, mergeDelay_mergeDelay]

/-- Settles O21. The second delay merges with what the first one left at the end of the trace. -/
theorem delaysMerge : Obligations.DelaysMerge := by
  unfold Obligations.DelaysMerge
  intro a b s
  refine ⟨?_, rfl⟩
  unfold delay
  rw [delayedTrace_delayedTrace]

/-! ### The STEP commands -/

theorem delayUnits_slow : delayUnits .slow = fun _ _ => 5 := rfl

theorem delayUnits_fast : delayUnits .fast = fun _ _ => 1 := rfl

theorem delayUnits_auto : delayUnits .auto = autoUnits := by
  funext j n
  simp only [delayUnits, rampUnits, autoUnits, Nat.add_assoc]

/-- A move and the response 0 (R74). -/
theorem respond_stepMotor (steps : Int) (speed : Speed) (s : State) :
    respond (responseWord false 0#2) (stepMotor steps speed s) = { s with
      phaseIdx := phaseIdxAfter s.cfg.val s.phaseIdx steps
      out := releasedBank s.cfg.val s.out
      trace := s.trace ++ moveEvents s.cfg.val (delayUnits speed) s.phaseIdx.toNat steps
      response := some 0b0000#4
      busy := false
      calibrating := false } := by
  rw [stepMotor_eq]
  rfl

/-- Settles O16. Each command is a move and a response (`respond_stepMotor`), with its policy's units. -/
theorem stepCommandsResult : Obligations.StepCommandsResult := by
  unfold Obligations.StepCommandsResult
  intro n s
  refine ⟨?_, ?_, ?_⟩
  · rw [exec_next, ← delayUnits_slow]; exact congrArg _ (respond_stepMotor _ .slow s)
  · rw [exec_next, ← delayUnits_auto]; exact congrArg _ (respond_stepMotor _ .auto s)
  · rw [exec_next, ← delayUnits_fast]; exact congrArg _ (respond_stepMotor _ .fast s)

/-- A count and its two's complement negation sum to 0 modulo the word, also for the least count (R59). -/
theorem toInt_add_toInt_neg (n : Operand) : ∃ c : Int, n.toInt + (-n).toInt = 2 ^ 32 * c := by
  obtain ⟨c, hc⟩ : ((2 ^ 32 : Nat) : Int) ∣ (-n.toInt).bmod (2 ^ 32) - -n.toInt := Int.dvd_bmod_sub_self
  refine ⟨c, ?_⟩
  rw [BitVec.toInt_neg]
  omega

theorem phaseAfter_multiple (p : Params) {start : Nat} (range : start < phaseCount p) (c : Int) :
    phaseAfter p start (2 ^ 32 * c) = start := by
  rcases phaseCount_cases p with h | h <;> simp only [phaseAfter, h] at range ⊢ <;> omega

theorem phaseIdxAfter_reverse (p : Params) {idx : BitVec 3} (range : idx.toNat < phaseCount p) (n : Operand) :
    phaseIdxAfter p (phaseIdxAfter p idx n.toInt) (-n).toInt = idx := by
  obtain ⟨c, sum⟩ := toInt_add_toInt_neg n
  have there := toNat_phaseIdxAfter p idx n.toInt range
  apply BitVec.eq_of_toNat_eq
  rw [toNat_phaseIdxAfter p _ _ (by rw [there]; exact phaseAfter_lt _ _ _), there, phaseAfter_phaseAfter, sum,
    phaseAfter_multiple p range]

/-- Settles O17. Whatever the speed, the two moves add up to a multiple of `2 ^ 32`, hence of the phase count. -/
theorem stepIsReversible : Obligations.StepIsReversible := by
  unfold Obligations.StepIsReversible
  intro n s t u range
  have there_and_back (speed : Speed)
      (ht : t = respond (responseWord false 0#2) (stepMotor (stepCount n) speed s))
      (hu : u = respond (responseWord false 0#2) (stepMotor (stepCount (-n)) speed t)) : u.phaseIdx = s.phaseIdx := by
    rw [respond_stepMotor] at ht hu
    subst ht hu
    exact phaseIdxAfter_reverse s.cfg.val range n
  refine ⟨fun ht hu => ?_, fun ht hu => ?_, fun ht hu => ?_⟩
  · rw [exec_next] at ht hu; cases ht; cases hu; exact there_and_back .fast rfl rfl
  · rw [exec_next] at ht hu; cases ht; cases hu; exact there_and_back .slow rfl rfl
  · rw [exec_next] at ht hu; cases ht; cases hu; exact there_and_back .auto rfl rfl

/-! ### How long a trace lasts, how many steps and samples it has -/

theorem totalDelay_append (a b : List Event) : totalDelay (a ++ b) = totalDelay a + totalDelay b := by
  induction a with
  | nil => simp [totalDelay]
  | cons e rest ih => cases e <;> simp [totalDelay, ih, Nat.add_assoc]

theorem pulseCount_append (a b : List Event) : pulseCount (a ++ b) = pulseCount a + pulseCount b := by
  simp [pulseCount]

theorem sampleCount_append (a b : List Event) : sampleCount (a ++ b) = sampleCount a + sampleCount b := by
  simp [sampleCount]

theorem totalDelay_pulseEvents (p : Params) (i us : Nat) : totalDelay (pulseEvents p i us) = us := by
  unfold pulseEvents delayEvents
  split
  · simp_all [totalDelay]
  · simp [totalDelay]

theorem pulseCount_pulseEvents (p : Params) (i us : Nat) : pulseCount (pulseEvents p i us) = 1 := by
  unfold pulseEvents delayEvents
  split <;> rfl

theorem sampleCount_pulseEvents (p : Params) (i us : Nat) : sampleCount (pulseEvents p i us) = 0 := by
  unfold pulseEvents delayEvents
  split <;> rfl

/-- What adds up along a trace adds up over the iterations of a move. -/
theorem flatMap_range_sum {F : List Event → Nat} (nil : F [] = 0) (append : ∀ a b, F (a ++ b) = F a + F b)
    (f : Nat → List Event) (n : Nat) : F ((List.range n).flatMap f) = ∑ j ∈ Finset.range n, F (f j) := by
  induction n with
  | zero => simpa using nil
  | succ n ih => rw [List.range_succ, List.flatMap_append, append, ih, Finset.sum_range_succ]; simp

theorem totalDelay_moveEvents (p : Params) (units : Nat → Nat → Nat) (start : Nat) (steps : Int) :
    totalDelay (moveEvents p units start steps) =
      (∑ j ∈ Finset.range steps.natAbs, units j steps.natAbs) * rapidDelayUs p := by
  unfold moveEvents
  split
  · simp_all [totalDelay]
  · simp only [flatMap_range_sum (F := totalDelay) rfl totalDelay_append, totalDelay_pulseEvents, Finset.sum_mul]

theorem pulseCount_moveEvents (p : Params) (units : Nat → Nat → Nat) (start : Nat) (steps : Int) :
    pulseCount (moveEvents p units start steps) = steps.natAbs := by
  unfold moveEvents
  split
  · simp_all [pulseCount, isPulse]
  · simp [flatMap_range_sum (F := pulseCount) rfl pulseCount_append, pulseCount_pulseEvents]

/-! ### The Auto ramp (40_stepper_driver.md R81, R83) -/

theorem sum_range_indicator (c n : Nat) : (∑ j ∈ Finset.range n, if j < c then 1 else 0) = min n c := by
  induction n with
  | zero => simp
  | succ n ih => rw [Finset.sum_range_succ, ih]; split <;> omega

/-- The end of the ramp is its beginning read backwards, one place short. -/
theorem sum_range_indicator_reflect (c n : Nat) :
    (∑ j ∈ Finset.range n, if n - j < c + 1 then 1 else 0) = min n c := by
  rw [← sum_range_indicator, ← Finset.sum_range_reflect]
  refine Finset.sum_congr rfl fun j hj => ?_
  have := Finset.mem_range.mp hj
  exact if_congr (by omega) rfl rfl

/-- The two ramps of a move of at least 20 steps wait 35 and 32 rapid delays beside the one of each step. -/
theorem sum_autoUnits {n : Nat} (long : 20 ≤ n) : ∑ j ∈ Finset.range n, autoUnits j n = n + 67 := by
  simp only [autoUnits, Finset.sum_add_distrib, sum_range_indicator, sum_range_indicator_reflect, Finset.sum_const,
    Finset.card_range, smul_eq_mul]
  omega

/-- Settles O18. The duration of a move is its units times `R_US` (`totalDelay_moveEvents`); the units are constant for Slow
and Fast, and `sum_autoUnits` for Auto. -/
theorem moveDurations : Obligations.MoveDurations := by
  unfold Obligations.MoveDurations
  intro n s t
  have duration (speed : Speed) :
      totalDelay (respond (responseWord false 0#2) (stepMotor (stepCount n) speed s)).trace = totalDelay s.trace +
        (∑ j ∈ Finset.range n.toInt.natAbs, delayUnits speed j n.toInt.natAbs) * rapidDelayUs s.cfg.val := by
    rw [respond_stepMotor]
    exact (totalDelay_append _ _).trans (congrArg _ (totalDelay_moveEvents _ _ _ _))
  refine ⟨fun he => ?_, fun he => ?_, fun he long => ?_⟩
  · rw [exec_next] at he; cases he
    rw [duration .slow, delayUnits_slow]
    simp [Nat.mul_comm 5]
  · rw [exec_next] at he; cases he
    rw [duration .fast, delayUnits_fast]
    simp
  · rw [exec_next] at he; cases he
    rw [duration .auto, delayUnits_auto, sum_autoUnits long]

end Sys2Proof.Machine

/-! ### UPDATE (42_time_update.md) -/

namespace Sys2Proof.Machine

/-- Settles O31. One lemma for each clause. -/
theorem shortestPathIsShortest : Obligations.ShortestPathIsShortest := by
  unfold Obligations.ShortestPathIsShortest
  intro S raw pos range
  exact ⟨natAbs_shortestPath_le (by omega), shortestPath_congr S raw, shortestPath_of_short,
    natAbs_shortestPath_lt (by omega)⟩

/-- On a raw delta at most one of the two comparisons of the shortest path applies (R101). -/
theorem shortestPath_eq (S : Nat) (raw : Int) : shortestPath S raw =
    if raw > (S : Int) / 2 then raw - S else if raw < -((S : Int) / 2) then raw + S else raw := by
  unfold shortestPath
  dsimp only
  split <;> split <;> split <;> omega

theorem toNat_append_eq {m n : Nat} (x : BitVec m) (y : BitVec n) : (x ++ y).toNat = x.toNat * 2 ^ n + y.toNat := by
  rw [BitVec.toNat_append, ← Nat.shiftLeft_add_eq_or_of_lt y.isLt, Nat.shiftLeft_eq]

theorem toNat_commandWord (opc : BitVec 3) (spd : BitVec 2) (arg : Operand) :
    (commandWord opc spd arg).toNat = opc.toNat * 2 ^ 37 + spd.toNat * 2 ^ 35 + arg.toNat := by
  change @BitVec.toNat (3 + 2 + 3 + 32) (opc ++ spd ++ 0#3 ++ arg) = _
  simp only [toNat_append_eq, BitVec.toNat_zero]
  omega

theorem toNat_updateOperand (hour : BitVec 5) (minute : BitVec 6) :
    (updateOperand hour minute).toNat = hour.toNat * 64 + minute.toNat := by
  change @BitVec.toNat (21 + 5 + 6) (0#21 ++ hour ++ minute) = _
  simp only [toNat_append_eq, BitVec.toNat_zero]
  omega

theorem toNat_encode_update (hour : BitVec 5) (minute : BitVec 6) :
    (encode (.update hour minute)).toNat = 0x4000000000 + (hour.toNat * 64 + minute.toNat) := by
  rw [encode, toNat_commandWord, toNat_updateOperand]
  rfl

/-- Settles O28. The word is read off its fields; the next state is that of `moveToMinute_eq`, whose step count is the
statement's (`shortestPath_eq`). -/
theorem updateResult : Obligations.UpdateResult := by
  unfold Obligations.UpdateResult
  intro hour minute s hh hm p S moc raw delta
  refine ⟨toNat_encode_update hour minute, minuteOfCycle_lt s.cfg hour hm, ?_⟩
  have same_delta : updateDelta p moc s.lastPosition.toNat = delta := shortestPath_eq _ _
  have body : exec (.update hour minute) s = .next (respond (responseWord false 0#2) (updateBody moc s)) :=
    exec_update s hh hm
  rw [body]
  by_cases same : moc = s.lastMinutes.toNat
  · rw [if_pos same, updateBody_unchanged same]
    rfl
  · rw [if_neg same, updateBody_changed same, moveToMinute_eq, ← delayUnits_auto, ← same_delta]
    rfl

/-- Settles O30. A changed minute moves to its target exactly (`toNat_lastPosition_moveToMinute`), and then the register
differs from before. -/
theorem updateReachesTarget : Obligations.UpdateReachesTarget := by
  unfold Obligations.UpdateReachesTarget
  intro hour minute s t hh hm _ he
  have range := minuteOfCycle_lt s.cfg hour hm
  have found := updateBody_lastMinutes (range.trans (minutesPerCycle_lt s.cfg)) s
  cases (exec_update s hh hm).symm.trans he
  by_cases same : minuteOfCycle s.cfg.val hour minute = s.lastMinutes.toNat
  · rw [updateBody_unchanged same] at found ⊢
    exact ⟨found, fun changed => (changed rfl).elim, fun _ => rfl⟩
  · rw [updateBody_changed same] at found ⊢
    refine ⟨found, fun _ => ?_, fun unchanged => (same ?_).elim⟩
    · rw [respond_lastPosition, respond_lastMinutes, found, toNat_lastPosition_moveToMinute s range, targetPosition]
    · rw [← found]
      exact congrArg BitVec.toNat unchanged

/-- Settles O32. The target and the register both lie on the ring, so that the raw delta is shorter than it and the move at
most half of it; a move of `n` steps makes `n` pulses. -/
theorem updateMovesAtMostHalfACycle : Obligations.UpdateMovesAtMostHalfACycle := by
  unfold Obligations.UpdateMovesAtMostHalfACycle
  intro hour minute s t hh hm position he
  have target := targetPosition_lt s.cfg (minuteOfCycle_lt s.cfg hour hm)
  cases (exec_update s hh hm).symm.trans he
  by_cases same : minuteOfCycle s.cfg.val hour minute = s.lastMinutes.toNat
  · rw [updateBody_unchanged same]
    exact Nat.le_add_right _ _
  · rw [updateBody_changed same, moveToMinute_eq, respond_trace, pulseCount_append, pulseCount_moveEvents]
    exact Nat.add_le_add_left (natAbs_shortestPath_le (by omega)) _

/-! ### Who writes the position and status registers (10_state.md R23 to R26) -/

/-- An operation that writes none of the position and status registers and adds nothing to the record of the port. -/
structure KeepsRegisters (s t : State) : Prop where
  lastPosition : t.lastPosition = s.lastPosition
  lastMinutes : t.lastMinutes = s.lastMinutes
  hstate : t.hstate = s.hstate
  status : t.status = s.status
  statusSeen : t.statusSeen = s.statusSeen

theorem keepsRegisters_stepMotor (steps : Int) (speed : Speed) (s : State) : KeepsRegisters s (stepMotor steps speed s) := by
  rw [stepMotor_eq]
  exact ⟨rfl, rfl, rfl, rfl, rfl⟩

theorem keepsRegisters_respond {s t : State} (h : KeepsRegisters s t) (w : Response) : KeepsRegisters s (respond w t) := by
  obtain ⟨position, minutes, hstate, status, seen⟩ := h
  exact ⟨position, minutes, hstate, status, seen⟩

theorem keepsRegisters_exec {i : Instr} {s t : State} (update : ∀ hour minute, i ≠ .update hour minute) (home : i ≠ .home)
    (calibrate : i ≠ .calibrate) (he : exec i s = .next t) : KeepsRegisters s t := by
  cases (exec_next i s).symm.trans he
  cases i with
  | stepSlow n | stepAuto n | stepFast n => exact keepsRegisters_respond (keepsRegisters_stepMotor _ _ s) _
  | isHome | isButton => exact ⟨rfl, rfl, rfl, rfl, rfl⟩
  | update hour minute => exact (update hour minute rfl).elim
  | home => exact (home rfl).elim
  | calibrate => exact (calibrate rfl).elim

/-- The position state of `t` is that of `s`, or zero (43_homing.md R118, R119). -/
def KeepsOrZeroes (s t : State) : Prop :=
  (t.lastPosition = s.lastPosition ∧ t.lastMinutes = s.lastMinutes) ∨ (t.lastPosition = 0#32 ∧ t.lastMinutes = 0#11)

theorem keepsOrZeroes_homeBody (s : State) : KeepsOrZeroes s (homeBody s) := (homeBody_registers s).2.2

theorem keepsOrZeroes_calibratePass (s : State) : KeepsOrZeroes s (calibratePass s) := by
  refine calibratePass_rule (Q := KeepsOrZeroes s) ?_ ?_ ?_ ?_ ?_ (keepsOrZeroes_homeBody s)
  · exact fun _ h => h
  · exact fun _ _ h => h
  · exact fun k u h => by rw [stepMotor_eq]; exact h
  · exact fun _ h => h
  · exact fun _ h => h

/-- Settles O44. HOME and the sub-moves of CALIBRATE keep or zero the position state; the other commands write neither
register. -/
theorem positionWriters : Obligations.PositionWriters := by
  unfold Obligations.PositionWriters
  intro i s t update he
  by_cases homing : i = .home ∨ i = .calibrate
  · have position : KeepsOrZeroes s t := by
      cases (exec_next i s).symm.trans he
      rcases homing with rfl | rfl
      · exact keepsOrZeroes_homeBody s
      · exact keepsOrZeroes_calibratePass s
    exact position.imp_right fun zero => ⟨homing, zero⟩
  · obtain ⟨home, calibrate⟩ := not_or.mp homing
    have keeps := keepsRegisters_exec update home calibrate he
    exact .inl ⟨keeps.lastPosition, keeps.lastMinutes⟩

/-- UPDATE writes the position state only. -/
theorem update_keeps_status {hour : BitVec 5} {minute : BitVec 6} {s t : State}
    (he : exec (.update hour minute) s = .next t) :
    t.hstate = s.hstate ∧ t.status = s.status ∧ t.statusSeen = s.statusSeen := by
  by_cases range : hour.toNat ≤ 23 ∧ minute.toNat ≤ 59
  · cases (exec_update s range.1 range.2).symm.trans he
    by_cases same : minuteOfCycle s.cfg.val hour minute = s.lastMinutes.toNat
    · rw [updateBody_unchanged same]; exact ⟨rfl, rfl, rfl⟩
    · rw [updateBody_changed same, moveToMinute_eq]; exact ⟨rfl, rfl, rfl⟩
  · cases (exec_update_out_of_range s range).symm.trans he
    exact ⟨rfl, rfl, rfl⟩

/-- Settles O45. UPDATE writes the position state only, the other commands no register of the two groups. -/
theorem statusWriters : Obligations.StatusWriters := by
  unfold Obligations.StatusWriters
  intro i s t home calibrate he
  by_cases update : ∃ hour minute, i = .update hour minute
  · obtain ⟨hour, minute, rfl⟩ := update
    exact update_keeps_status he
  · have keeps := keepsRegisters_exec (fun hour minute h => update ⟨hour, minute, h⟩) home calibrate he
    exact ⟨keeps.hstate, keeps.status, keeps.statusSeen⟩

end Sys2Proof.Machine

/-! ### HOME when its answers are given (43_homing.md R112 to R118, 60_exceptions.md R141) -/

namespace Sys2Proof.Machine

/-- A HOME that began in `s` on its way: in the transient state `x`, `k` steps from where it began, with `rest` left of the
answers, the trace `tr`, and the entries `seen` new on the record of the status port. -/
def onItsWay (x : HState) (k : Int) (rest : List Bool) (tr : List Event) (seen : List StatusShown) (s : State) : State :=
  { s with
    phaseIdx := BitVec.ofNat 3 (phaseAfter s.cfg.val s.phaseIdx.toNat k)
    hstate := x
    out := releasedBank s.cfg.val s.out
    homeIn := rest
    trace := tr
    statusSeen := s.statusSeen ++ seen }

theorem settled_onItsWay (x : HState) (k : Int) (rest : List Bool) (tr : List Event) (seen : List StatusShown) (s : State) :
    Settled (onItsWay x k rest tr seen s) := by
  refine ⟨?_, releasedBank_released _ _⟩
  rw [onItsWay, toNat_ofNat_phaseAfter]
  exact phaseAfter_lt _ _ _

/-- The first phase sets out from `s` itself. -/
theorem afterSteps_from_start (n : Nat) (rest : List Bool) (ev : List Event) (s : State) :
    afterSteps 1 n rest ev (writeHState .seekingHomeForward s) =
      onItsWay .seekingHomeForward n rest (s.trace ++ ev) [⟨s.trace.length, .seekingHomeForward, s.status⟩] s := by
  unfold afterSteps onItsWay
  rw [one_mul]
  rfl

/-- A later phase goes on where the one before it ended. -/
theorem afterSteps_onItsWay (dir : Int) (n : Nat) (x y : HState) (k : Int) (rest rest' : List Bool) (tr ev : List Event)
    (seen : List StatusShown) (s : State) :
    afterSteps dir n rest' ev (writeHState y (onItsWay x k rest tr seen s)) =
      onItsWay y (k + dir * n) rest' (tr ++ ev) (seen ++ [⟨tr.length, y, s.status⟩]) s := by
  simp only [afterSteps, onItsWay, writeHState, showStatus, toNat_ofNat_phaseAfter, phaseAfter_phaseAfter,
    releasedBank_released, List.append_assoc]

theorem homeBody_found {s : State} {p1 : Nat} (budget : p1 + 1 ≤ stepsPerCycle s.cfg.val + stepsPerHour s.cfg.val)
    {rest : List Bool} (answers : s.homeIn = (answersOf false p1).map (rawLevel s.cfg.val) ++ rest) :
    homeBody s = homePhase2 (onItsWay .seekingHomeForward (p1 + 1) rest
      (s.trace ++ seekEvents s.cfg.val s.phaseIdx.toNat (answersOf false p1))
      [⟨s.trace.length, .seekingHomeForward, s.status⟩] s) := by
  have loop := homeBody_of (seekHome_found p1 _ budget (writeHState .seekingHomeForward s) rest answers)
  rwa [if_pos rfl, afterSteps_from_start, Nat.cast_succ] at loop

theorem homeBody_exhausted {s : State} {rest : List Bool}
    (answers : s.homeIn = (List.replicate (stepsPerCycle s.cfg.val + stepsPerHour s.cfg.val) false).map
      (rawLevel s.cfg.val) ++ rest) :
    homeBody s = raiseHomeFailure .phase1 (onItsWay .seekingHomeForward
      (stepsPerCycle s.cfg.val + stepsPerHour s.cfg.val) rest (s.trace ++ seekEvents s.cfg.val s.phaseIdx.toNat
        (List.replicate (stepsPerCycle s.cfg.val + stepsPerHour s.cfg.val) false))
      [⟨s.trace.length, .seekingHomeForward, s.status⟩] s) := by
  have loop := seekHome_exhausted (stepsPerCycle s.cfg.val + stepsPerHour s.cfg.val - 1)
    (writeHState .seekingHomeForward s) rest
  rw [Nat.sub_add_cancel (by have := stepsPerCycle_pos s.cfg; omega)] at loop
  have body := homeBody_of (loop answers)
  rwa [if_neg Bool.false_ne_true, afterSteps_from_start, Nat.cast_add] at body

theorem toNat_phaseIdx_onItsWay (x : HState) (k : Int) (rest : List Bool) (tr : List Event) (seen : List StatusShown)
    (s : State) : (onItsWay x k rest tr seen s).phaseIdx.toNat = phaseAfter s.cfg.val s.phaseIdx.toNat k :=
  toNat_ofNat_phaseAfter _ _ _

section Phases

variable {x : HState} {k : Int} {answers rest : List Bool} {tr : List Event} {seen : List StatusShown} {s : State}

theorem homePhase2_cleared {p2 : Nat} (budget : p2 ≤ stepsPerHour s.cfg.val)
    (placed : answers = (answersOf true p2).map (rawLevel s.cfg.val) ++ rest) :
    homePhase2 (onItsWay x k answers tr seen s) = homePhase3 (onItsWay .backingOff (k - p2) rest
      (tr ++ backOffEvents s.cfg.val (phaseAfter s.cfg.val s.phaseIdx.toNat k) (answersOf true p2))
      (seen ++ [⟨tr.length, .backingOff, s.status⟩]) s) := by
  have loop := homePhase2_of (s := onItsWay x k answers tr seen s) (backOff_cleared p2 _ budget _
    (settled_writeHState _ (settled_onItsWay x k answers tr seen s)) rest placed)
  rwa [if_pos rfl, afterSteps_onItsWay, writeHState_phaseIdx, toNat_phaseIdx_onItsWay, neg_one_mul,
    ← sub_eq_add_neg] at loop

theorem homePhase2_exhausted
    (placed : answers = (List.replicate (stepsPerHour s.cfg.val + 1) true).map (rawLevel s.cfg.val) ++ rest) :
    homePhase2 (onItsWay x k answers tr seen s) = raiseHomeFailure .phase2 (onItsWay .backingOff
      (k - stepsPerHour s.cfg.val) rest (tr ++ backOffEvents s.cfg.val (phaseAfter s.cfg.val s.phaseIdx.toNat k)
        (List.replicate (stepsPerHour s.cfg.val + 1) true)) (seen ++ [⟨tr.length, .backingOff, s.status⟩]) s) := by
  have loop := homePhase2_of (s := onItsWay x k answers tr seen s) (backOff_exhausted _ _
    (settled_writeHState _ (settled_onItsWay x k answers tr seen s)) rest placed)
  rwa [if_neg Bool.false_ne_true, afterSteps_onItsWay, writeHState_phaseIdx, toNat_phaseIdx_onItsWay, neg_one_mul,
    ← sub_eq_add_neg] at loop

theorem homePhase3_found {p3 : Nat} (budget : p3 ≤ stepsPerHour s.cfg.val)
    (placed : answers = (answersOf false p3).map (rawLevel s.cfg.val) ++ rest) :
    homePhase3 (onItsWay x k answers tr seen s) = homeReached (onItsWay .reapproachingSlow (k + p3) rest
      (tr ++ reapproachEvents s.cfg.val (phaseAfter s.cfg.val s.phaseIdx.toNat k) (answersOf false p3))
      (seen ++ [⟨tr.length, .reapproachingSlow, s.status⟩]) s) := by
  have loop := homePhase3_of (s := onItsWay x k answers tr seen s) (reapproach_found p3 _ budget _
    (settled_writeHState _ (settled_onItsWay x k answers tr seen s)) rest placed)
  rwa [if_pos rfl, afterSteps_onItsWay, writeHState_phaseIdx, toNat_phaseIdx_onItsWay, one_mul] at loop

theorem homePhase3_exhausted
    (placed : answers = (List.replicate (stepsPerHour s.cfg.val + 1) false).map (rawLevel s.cfg.val) ++ rest) :
    homePhase3 (onItsWay x k answers tr seen s) = raiseHomeFailure .phase3 (onItsWay .reapproachingSlow
      (k + stepsPerHour s.cfg.val) rest (tr ++ reapproachEvents s.cfg.val (phaseAfter s.cfg.val s.phaseIdx.toNat k)
        (List.replicate (stepsPerHour s.cfg.val + 1) false)) (seen ++ [⟨tr.length, .reapproachingSlow, s.status⟩]) s) := by
  have loop := homePhase3_of (s := onItsWay x k answers tr seen s) (reapproach_exhausted _ _
    (settled_writeHState _ (settled_onItsWay x k answers tr seen s)) rest placed)
  rwa [if_neg Bool.false_ne_true, afterSteps_onItsWay, writeHState_phaseIdx, toNat_phaseIdx_onItsWay, one_mul] at loop

end Phases

/-- HOME is its body and the status as the response (R110). -/
theorem exec_home_of {s t : State} (body : homeBody s = t) :
    exec .home s = .next (respond (responseWord false t.status) t) := by
  rw [exec_next, body]

/-- The end of a HOME that finds the sensor: the registers of R118 and the response 0. -/
theorem respond_homeReached (x : HState) (k : Int) (rest : List Bool) (tr : List Event) (seen : List StatusShown) (s : State) :
    respond (responseWord false 0#2) (homeReached (onItsWay x k rest tr seen s)) = { s with
      phaseIdx := BitVec.ofNat 3 (phaseAfter s.cfg.val s.phaseIdx.toNat k)
      lastMinutes := 0#11, lastPosition := 0#32, hstate := .homed, status := 0#2, busy := false, calibrating := false
      out := releasedBank s.cfg.val s.out
      response := some 0b0000#4
      homeIn := rest
      trace := tr
      statusSeen := s.statusSeen ++ (seen ++ [⟨tr.length, .homed, 0#2⟩]) } := by
  rw [← List.append_assoc]
  rfl

/-- The end of a HOME that fails: the state and the code of the failure, the code as the response
(60_exceptions.md R144). -/
theorem respond_raiseHomeFailure (f : HomeFailure) (x : HState) (k : Int) (rest : List Bool) (tr : List Event)
    (seen : List StatusShown) (s : State) :
    respond (responseWord false (failureCode f)) (raiseHomeFailure f (onItsWay x k rest tr seen s)) = { s with
      phaseIdx := BitVec.ofNat 3 (phaseAfter s.cfg.val s.phaseIdx.toNat k)
      hstate := failureState f, status := failureCode f, busy := false, calibrating := false
      out := releasedBank s.cfg.val s.out
      response := some (responseWord false (failureCode f))
      homeIn := rest
      trace := tr
      statusSeen := s.statusSeen ++ (seen ++ [⟨tr.length, failureState f, failureCode f⟩]) } := by
  rw [← List.append_assoc]
  rfl

/-- Settles O33. Each phase ends by its answers, within its budget, and the next goes on from there. -/
theorem homeSucceeds : Obligations.HomeSucceeds := by
  unfold Obligations.HomeSucceeds
  intro s p1 p2 p3 rest p i t1 t2 t3 budget1 budget2 budget3 answers
  rw [List.map_append, List.map_append, List.append_assoc, List.append_assoc] at answers
  have body := homeBody_found budget1 answers
  rw [homePhase2_cleared budget2 rfl, homePhase3_found budget3 rfl] at body
  exact (exec_home_of body).trans (congrArg _ (respond_homeReached _ _ _ _ _ _))

/-- Settles O34. Each failure is the exhausted budget of one phase, after the phases before it ended by their answers. -/
theorem homeFailures : Obligations.HomeFailures := by
  unfold Obligations.HomeFailures
  intro s p1 p2 rest p i H S lost1 t1 lost2 t2 lost3
  refine ⟨fun answers => ?_, fun budget1 answers => ?_, fun budget1 budget2 answers => ?_⟩
  · exact (exec_home_of (homeBody_exhausted answers)).trans (congrArg _ (respond_raiseHomeFailure .phase1 _ _ _ _ _ _))
  · rw [List.map_append, List.append_assoc] at answers
    have body := homeBody_found budget1 answers
    rw [homePhase2_exhausted rfl] at body
    exact (exec_home_of body).trans (congrArg _ (respond_raiseHomeFailure .phase2 _ _ _ _ _ _))
  · rw [List.map_append, List.map_append, List.append_assoc, List.append_assoc] at answers
    have body := homeBody_found budget1 answers
    rw [homePhase2_cleared budget2 rfl, homePhase3_exhausted rfl] at body
    exact (exec_home_of body).trans (congrArg _ (respond_raiseHomeFailure .phase3 _ _ _ _ _ _))

end Sys2Proof.Machine

/-! ### HOME whatever the environment answers (43_homing.md R111, R119, R120) -/

namespace Sys2Proof.Machine

/-- The four ways in which a HOME can end, each with the transient states before it (R111). -/
def HomePath (h : HState) (path : List HState) : Prop :=
  (h = .homePhase1Error ∧ path = [.seekingHomeForward]) ∨
  (h = .homePhase2Error ∧ path = [.seekingHomeForward, .backingOff]) ∨
  (h = .homePhase3Error ∧ path = [.seekingHomeForward, .backingOff, .reapproachingSlow]) ∨
  (h = .homed ∧ path = [.seekingHomeForward, .backingOff, .reapproachingSlow])

theorem homeBody_leaves (s : State) :
    ∃ h path, HomePath h path ∧ HomeLeaves s.cfg.val s.out s (homeBody s) h path := by
  rcases homeBody_outcome s with leaves | leaves | leaves | leaves
  · exact ⟨_, _, .inl ⟨rfl, rfl⟩, leaves⟩
  · exact ⟨_, _, .inr (.inl ⟨rfl, rfl⟩), leaves⟩
  · exact ⟨_, _, .inr (.inr (.inl ⟨rfl, rfl⟩)), leaves⟩
  · exact ⟨_, _, .inr (.inr (.inr ⟨rfl, rfl⟩)), leaves⟩

theorem homeLeaves_registers {p : Params} {bank : Bank} {s t : State} {h : HState} {path : List HState}
    (leaves : HomeLeaves p bank s t h path) :
    t.hstate = h ∧ t.status = statusOfState h ∧
      t.lastPosition = (if h = .homed then 0#32 else s.lastPosition) ∧
      t.lastMinutes = (if h = .homed then 0#11 else s.lastMinutes) := by
  obtain ⟨u, marks, -, -, -, -, -, -, rfl⟩ := leaves
  exact ⟨rfl, rfl, rfl, rfl⟩

/-- The record of the status port that the outcome leaves (60_exceptions.md R155). -/
theorem homeLeaves_record {p : Params} {bank : Bank} {s t : State} {h : HState} {path : List HState}
    (leaves : HomeLeaves p bank s t h path) :
    ∃ marks, marks.length = path.length ∧ marks.head? = some s.trace.length ∧ marks.Pairwise (· < ·) ∧
      (∀ m ∈ marks, m < t.trace.length) ∧
      t.statusSeen = s.statusSeen ++ transientsShown s.status marks path ++ [⟨t.trace.length, t.hstate, t.status⟩] := by
  obtain ⟨u, marks, -, -, length, first, ordered, range, rfl⟩ := leaves
  exact ⟨marks, length, first, ordered, fun m hm => (range m hm).2, rfl⟩

/-- Settles O35. HOME is total; what each outcome leaves in the registers is `homeLeaves_registers`. -/
theorem homeAlwaysEnds : Obligations.HomeAlwaysEnds := by
  unfold Obligations.HomeAlwaysEnds
  intro s
  obtain ⟨-, button, -⟩ := homeBody_keeps s
  obtain ⟨idx, out⟩ := homeBody_rests s
  obtain ⟨status, -, -⟩ := homeBody_registers s
  obtain ⟨h, path, ends, leaves⟩ := homeBody_leaves s
  obtain ⟨hstate, -, position, minutes⟩ := homeLeaves_registers leaves
  refine ⟨_, exec_home_of rfl, rfl, rfl, rfl, status, button, out, idx, ?_⟩
  rw [respond_hstate, respond_lastPosition, respond_lastMinutes, hstate, position, minutes]
  rcases ends with ⟨rfl, -⟩ | ⟨rfl, -⟩ | ⟨rfl, -⟩ | ⟨rfl, -⟩ <;> simp

/-- Settles O37. The record's new entries are the transient states of the path and the result. -/
theorem homePaths : Obligations.HomePaths := by
  unfold Obligations.HomePaths
  intro s t he
  cases (exec_home_of rfl).symm.trans he
  obtain ⟨h, path, ends, leaves⟩ := homeBody_leaves s
  obtain ⟨hstate, -⟩ := homeLeaves_registers leaves
  obtain ⟨marks, length, -, -, -, record⟩ := homeLeaves_record leaves
  refine ⟨path ++ [h], ?_, ?_, ?_⟩
  · rw [respond_statusSeen, record, List.map_append, List.map_append, transientsShown_hstate _ _ _ length,
      List.append_assoc, hstate]
    rfl
  · rw [List.getLast?_concat, respond_hstate, hstate]
  · rcases ends with ⟨rfl, rfl⟩ | ⟨rfl, rfl⟩ | ⟨rfl, rfl⟩ | ⟨rfl, rfl⟩ <;> simp

/-! ### The bounds of a HOME (R120) -/

/-- From `s` to `t` the trace grows by at least `least` and at most `most` phase-steps, at most `samples` samples, none of
the button, and delays of at most `us` microseconds. -/
def Makes (least most samples us : Nat) (s t : State) : Prop :=
  t.cfg = s.cfg ∧ ∃ ev, t.trace = s.trace ++ ev ∧ least ≤ pulseCount ev ∧ pulseCount ev ≤ most ∧
    sampleCount ev ≤ samples ∧ (∀ e ∈ ev, isButtonSample e = false) ∧ totalDelay ev ≤ us

theorem makes_trans {a b c d a' b' c' d' : Nat} {s t u : State} (h : Makes a b c d s t) (h' : Makes a' b' c' d' t u) :
    Makes (a + a') (b + b') (c + c') (d + d') s u := by
  obtain ⟨cfg, ev, trace, least, most, samples, button, us⟩ := h
  obtain ⟨cfg', ev', trace', least', most', samples', button', us'⟩ := h'
  refine ⟨cfg'.trans cfg, ev ++ ev', by rw [trace', trace, List.append_assoc], ?_, ?_, ?_,
    List.forall_mem_append.mpr ⟨button, button'⟩, ?_⟩
  · rw [pulseCount_append]; exact Nat.add_le_add least least'
  · rw [pulseCount_append]; exact Nat.add_le_add most most'
  · rw [sampleCount_append]; exact Nat.add_le_add samples samples'
  · rw [totalDelay_append]; exact Nat.add_le_add us us'

theorem makes_mono {a b c d a' b' c' d' : Nat} {s t : State} (h : Makes a b c d s t) (ha : a' ≤ a) (hb : b ≤ b')
    (hc : c ≤ c') (hd : d ≤ d') : Makes a' b' c' d' s t := by
  obtain ⟨cfg, ev, trace, least, most, samples, button, us⟩ := h
  exact ⟨cfg, ev, trace, ha.trans least, most.trans hb, samples.trans hc, button, us.trans hd⟩

theorem makes_silent {s t : State} (cfg : t.cfg = s.cfg) (trace : t.trace = s.trace) : Makes 0 0 0 0 s t :=
  ⟨cfg, [], by rw [trace, List.append_nil], Nat.le_refl _, Nat.le_refl _, Nat.le_refl _, by simp, Nat.le_refl _⟩

theorem makes_sampleHome (s : State) : Makes 0 0 1 0 s (sampleHome s).2 :=
  ⟨rfl, [.homeSample (homeRaw s)], rfl, Nat.le_refl _, Nat.le_refl _, Nat.le_refl _, by simp [isButtonSample], Nat.le_refl _⟩

theorem not_buttonSample_of_not_sample {e : Event} (h : isSample e = false) : isButtonSample e = false := by
  cases e with
  | buttonSample => cases h
  | set | clr | delay | homeSample => rfl

theorem makes_stepMotor_one {dir : Int} (hd : dir = 1 ∨ dir = -1) (speed : Speed) (s : State) :
    Makes 1 1 0 (delayUnits speed 0 1 * rapidDelayUs s.cfg.val) s (stepMotor dir speed s) := by
  rw [stepMotor_one dir hd]
  refine ⟨rfl, _, rfl, ?_, ?_, ?_, fun e he => not_buttonSample_of_not_sample ?_, ?_⟩
  · rw [pulseCount_pulseEvents]
  · rw [pulseCount_pulseEvents]
  · rw [sampleCount_pulseEvents]
  · exact (driven_pulseEvents s.cfg.val _ _ (phaseAfter_lt _ _ _) e he).2
  · rw [totalDelay_pulseEvents]

/-- A sample and then a step: one round of phase 2 or 3. -/
theorem makes_sample_then_step {dir : Int} (hd : dir = 1 ∨ dir = -1) (speed : Speed) (s : State) :
    Makes 1 1 1 (delayUnits speed 0 1 * rapidDelayUs s.cfg.val) s (stepMotor dir speed (sampleHome s).2) :=
  makes_mono (makes_trans (makes_sampleHome s) (makes_stepMotor_one hd speed (sampleHome s).2)) (Nat.le_refl _)
    (Nat.le_refl _) (Nat.le_refl _) (by rw [Nat.zero_add]; exact Nat.le_refl _)

/-- Phase 1: a step and a sample for each step of its budget, and no less than one (R112, R113). -/
theorem makes_seekHome (k : Nat) (s : State) :
    Makes (min k 1) k k (k * rapidDelayUs s.cfg.val) s (seekHome k s).2 := by
  induction k generalizing s with
  | zero => exact makes_mono (makes_silent rfl rfl) (by omega) (by omega) (by omega) (by omega)
  | succ k ih =>
    have one := makes_trans (makes_stepMotor_one (.inl rfl) .fast s) (makes_sampleHome (stepMotor 1 .fast s))
    have cfg : (sampleHome (stepMotor 1 .fast s)).2.cfg = s.cfg := one.1
    simp only [seekHome]
    by_cases found : (sampleHome (stepMotor 1 .fast s)).1 = true
    · rw [if_pos found]
      exact makes_mono one (by omega) (by omega) (by omega)
        (by simp only [delayUnits, Nat.succ_mul]; omega)
    · rw [if_neg found]
      have rest := ih (sampleHome (stepMotor 1 .fast s)).2
      rw [cfg] at rest
      exact makes_mono (makes_trans one rest) (by omega) (by omega) (by omega)
        (by simp only [delayUnits, Nat.succ_mul]; omega)

/-- Phase 2: a sample on entry, then a step and a sample for each step of its budget (R114, R115). -/
theorem makes_backOff (k : Nat) (s : State) :
    Makes 0 k (k + 1) (k * rapidDelayUs s.cfg.val) s (backOff k s).2 := by
  induction k generalizing s with
  | zero => exact makes_mono (makes_sampleHome s) (by omega) (by omega) (by omega) (by omega)
  | succ k ih =>
    simp only [backOff]
    by_cases active : (sampleHome s).1 = true
    · rw [if_pos active]
      have one := makes_sample_then_step (.inr rfl) .fast s
      have rest := ih (stepMotor (-1) .fast (sampleHome s).2)
      rw [one.1] at rest
      exact makes_mono (makes_trans one rest) (by omega) (by omega) (by omega)
        (by simp only [delayUnits, Nat.succ_mul]; omega)
    · rw [if_neg active]
      exact makes_mono (makes_sampleHome s) (by omega) (by omega) (by omega) (by omega)

/-- Phase 3: as phase 2, with slow steps (R116, R117). -/
theorem makes_reapproach (k : Nat) (s : State) :
    Makes 0 k (k + 1) (k * (5 * rapidDelayUs s.cfg.val)) s (reapproach k s).2 := by
  induction k generalizing s with
  | zero => exact makes_mono (makes_sampleHome s) (by omega) (by omega) (by omega) (by omega)
  | succ k ih =>
    simp only [reapproach]
    by_cases found : (sampleHome s).1 = true
    · rw [if_pos found]
      exact makes_mono (makes_sampleHome s) (by omega) (by omega) (by omega) (by omega)
    · rw [if_neg found]
      have one := makes_sample_then_step (.inl rfl) .slow s
      have rest := ih (stepMotor 1 .slow (sampleHome s).2)
      rw [one.1] at rest
      exact makes_mono (makes_trans one rest) (by omega) (by omega) (by omega)
        (by simp only [delayUnits, Nat.succ_mul]; omega)

theorem makes_homePhase3 (s : State) : Makes 0 (stepsPerHour s.cfg.val) (stepsPerHour s.cfg.val + 1)
    (stepsPerHour s.cfg.val * (5 * rapidDelayUs s.cfg.val)) s (homePhase3 s) := by
  have loop := makes_reapproach (stepsPerHour s.cfg.val) (writeHState .reapproachingSlow s)
  simp only [homePhase3]
  split
  · exact makes_trans loop (makes_silent rfl rfl)
  · exact makes_trans loop (makes_silent rfl rfl)

theorem makes_homePhase2 (s : State) : Makes 0 (2 * stepsPerHour s.cfg.val) (2 * stepsPerHour s.cfg.val + 2)
    (6 * (stepsPerHour s.cfg.val * rapidDelayUs s.cfg.val)) s (homePhase2 s) := by
  have loop := makes_backOff (stepsPerHour s.cfg.val) (writeHState .backingOff s)
  have phase3 := makes_homePhase3 (backOff (stepsPerHour s.cfg.val) (writeHState .backingOff s)).2
  rw [loop.1, writeHState_cfg, Nat.mul_left_comm] at phase3
  rw [writeHState_cfg] at loop
  simp only [homePhase2]
  split
  · exact makes_mono (makes_trans loop phase3) (by omega) (by omega) (by omega) (by omega)
  · exact makes_mono (makes_trans loop (makes_silent rfl rfl)) (by omega) (by omega) (by omega) (by omega)

theorem makes_homeBody (s : State) :
    Makes 1 (stepsPerCycle s.cfg.val + 3 * stepsPerHour s.cfg.val)
      (stepsPerCycle s.cfg.val + 3 * stepsPerHour s.cfg.val + 2)
      ((stepsPerCycle s.cfg.val + 7 * stepsPerHour s.cfg.val) * rapidDelayUs s.cfg.val) s (homeBody s) := by
  have loop := makes_seekHome (stepsPerCycle s.cfg.val + stepsPerHour s.cfg.val) (writeHState .seekingHomeForward s)
  have phase2 := makes_homePhase2
    (seekHome (stepsPerCycle s.cfg.val + stepsPerHour s.cfg.val) (writeHState .seekingHomeForward s)).2
  rw [loop.1, writeHState_cfg] at phase2
  rw [writeHState_cfg] at loop
  have pos := stepsPerHour_pos s.cfg
  simp only [homeBody]
  split
  · exact makes_mono (makes_trans loop phase2) (by omega) (by omega) (by omega)
      (by simp only [Nat.add_mul, Nat.mul_assoc]; omega)
  · exact makes_mono (makes_trans loop (makes_silent rfl rfl)) (by omega) (by omega) (by omega)
      (by simp only [Nat.add_mul, Nat.mul_assoc]; omega)

/-- Settles O36. The bounds of the three loops add up (`makes_homeBody`). -/
theorem homeBounds : Obligations.HomeBounds := by
  unfold Obligations.HomeBounds
  intro s t he
  cases (exec_home_of rfl).symm.trans he
  exact (makes_homeBody s).2

end Sys2Proof.Machine

/-! ### The status port during a HOME (60_exceptions.md R155; log 3) -/

namespace Sys2Proof.Machine

theorem mem_transientsShown {code : BitVec 2} {marks : List Nat} {path : List HState} {e : StatusShown}
    (h : e ∈ transientsShown code marks path) : e.made ∈ marks ∧ e.hstate ∈ path ∧ e.status = code := by
  induction path generalizing marks with
  | nil => simp [transientsShown] at h
  | cons x xs ih =>
    cases marks with
    | nil => simp [transientsShown] at h
    | cons m ms =>
      rcases List.mem_cons.mp h with rfl | later
      · exact ⟨List.mem_cons_self, List.mem_cons_self, rfl⟩
      · obtain ⟨made, hstate, status⟩ := ih later
        exact ⟨List.mem_cons_of_mem _ made, List.mem_cons_of_mem _ hstate, status⟩

/-- The order of the codes, which a HOME only climbs (R111; 10_state.md R25). -/
def CodeLe (x y : HState) : Prop := (hstateCode x).toNat ≤ (hstateCode y).toNat

theorem homePath_head {h : HState} {path : List HState} (ends : HomePath h path) :
    ∃ later, path = .seekingHomeForward :: later := by
  rcases ends with ⟨-, rfl⟩ | ⟨-, rfl⟩ | ⟨-, rfl⟩ | ⟨-, rfl⟩ <;> exact ⟨_, rfl⟩

theorem homePath_codes {h : HState} {path : List HState} (ends : HomePath h path) :
    (∀ x ∈ path, hstateCode x ∈ [1#3, 2#3, 3#3]) ∧ (path ++ [h]).Pairwise CodeLe ∧ 4 ≤ (hstateCode h).toNat := by
  unfold CodeLe
  rcases ends with ⟨rfl, rfl⟩ | ⟨rfl, rfl⟩ | ⟨rfl, rfl⟩ | ⟨rfl, rfl⟩ <;> decide

/-- The entry of a HOME that begins in `s`. -/
def homeBegins (s : State) : StatusShown := ⟨s.trace.length, .seekingHomeForward, s.status⟩

/-- The entry of the result of a HOME that ends in `t`. -/
def homeEnds (t : State) : StatusShown := ⟨t.trace.length, t.hstate, t.status⟩

/-- What a HOME from `s` to `t` adds to the record of the port: an entry when it begins, the entries `later` while it runs,
its result after all its events, and no code after a higher one. -/
structure HomeRecord (s t : State) (later : List StatusShown) : Prop where
  record : t.statusSeen = s.statusSeen ++ (homeBegins s :: later ++ [homeEnds t])
  length : s.trace.length < t.trace.length
  between : ∀ e ∈ later, s.trace.length < e.made
  transient : ∀ e ∈ homeBegins s :: later, hstateCode e.hstate ∈ [1#3, 2#3, 3#3] ∧ e.status = s.status
  climbs : (homeBegins s :: later ++ [homeEnds t]).Pairwise fun a b => CodeLe a.hstate b.hstate
  result : 4 ≤ (hstateCode t.hstate).toNat

theorem homeBody_record (s : State) : ∃ later, HomeRecord s (homeBody s) later := by
  obtain ⟨h, path, ends, leaves⟩ := homeBody_leaves s
  obtain ⟨hstate, -⟩ := homeLeaves_registers leaves
  obtain ⟨marks, length, first, ordered, range, record⟩ := homeLeaves_record leaves
  obtain ⟨codes, climbs, result⟩ := homePath_codes ends
  have shown := transientsShown_hstate s.status marks path length
  have mem (e : StatusShown) (he : e ∈ transientsShown s.status marks path) := mem_transientsShown he
  obtain ⟨xs, rfl⟩ := homePath_head ends
  obtain ⟨ms, rfl⟩ := List.head?_eq_some_iff.mp first
  obtain ⟨after_first, -⟩ := List.pairwise_cons.mp ordered
  refine ⟨transientsShown s.status ms xs, ?_, range _ List.mem_cons_self, fun e he => ?_, fun e he => ?_, ?_, ?_⟩
  · rw [record, List.append_assoc]
    rfl
  · exact after_first _ (mem_transientsShown he).1
  · obtain ⟨-, transient, status⟩ := mem e he
    exact ⟨codes _ transient, status⟩
  · rw [← List.pairwise_map (f := StatusShown.hstate) (R := CodeLe), List.map_append]
    rw [← hstate, ← shown] at climbs
    exact climbs
  · rw [hstate]; exact result

/-- In a record whose entries never go down, nothing shown by then is higher than what was shown last. -/
theorem shownBy_last_le {R : StatusShown → StatusShown → Prop} (refl : ∀ e, R e e) {seen : List StatusShown}
    (climbs : seen.Pairwise R) {j k : Nat} (le : j ≤ k) {a b : StatusShown} (ha : (shownBy j seen).getLast? = some a)
    (hb : (shownBy k seen).getLast? = some b) : R a b := by
  have earlier : a ∈ shownBy k seen := by
    rw [← shownBy_shownBy le] at ha
    exact List.mem_of_mem_filter (List.mem_of_getLast? ha)
  obtain ⟨init, split⟩ := List.getLast?_eq_some_iff.mp hb
  have sorted : (shownBy k seen).Pairwise R := climbs.sublist List.filter_sublist
  rw [split] at earlier sorted
  rcases List.mem_append.mp earlier with before | last
  · exact (List.pairwise_append.mp sorted).2.2 a before b List.mem_cons_self
  · rw [List.mem_singleton.mp last]; exact refl b

/-- What is shown last of a record is what is shown last of its end, once that has begun. -/
theorem shownBy_append_getLast? {k : Nat} (before : List StatusShown) {e : StatusShown} {after : List StatusShown}
    (begun : e.made ≤ k) : (shownBy k (before ++ e :: after)).getLast? = (shownBy k (e :: after)).getLast? := by
  have ne : shownBy k (e :: after) ≠ [] := by simp [shownBy, begun]
  rw [shownBy_append, List.getLast?_append_of_ne_nil _ ne]

/-- The response adds nothing to the record. -/
theorem homeRecord_respond {s t : State} {later : List StatusShown} (home : HomeRecord s t later) (w : Response) :
    HomeRecord s (respond w t) later := by
  obtain ⟨record, length, between, transient, climbs, result⟩ := home
  exact ⟨record, length, between, transient, climbs, result⟩

section Record

variable {s t : State} {later : List StatusShown} (home : HomeRecord s t later)
include home

theorem statusDuring_homeBegins :
    statusDuring t s.trace.length = some { busy := 1#1, hstate := 1#3, status := s.status } := by
  have record : t.statusSeen = s.statusSeen ++ homeBegins s :: (later ++ [homeEnds t]) := home.record
  refine statusDuring_of_last record (Nat.le_of_lt home.length) (Nat.le_refl _) ?_
  exact List.forall_mem_append.mpr ⟨home.between, fun e he => by rw [List.mem_singleton.mp he]; exact home.length⟩

theorem statusDuring_homeEnds :
    statusDuring t t.trace.length = some { busy := 1#1, hstate := hstateCode t.hstate, status := t.status } := by
  have record : t.statusSeen = (s.statusSeen ++ homeBegins s :: later) ++ homeEnds t :: [] := by
    rw [home.record, List.append_assoc]
  exact statusDuring_of_last record (Nat.le_refl _) (Nat.le_refl _) (by simp)

/-- From when a HOME has begun, the port shows what was shown last of its own entries. -/
theorem statusDuring_of_homeRecord {k : Nat} (begun : s.trace.length ≤ k) (made : k ≤ t.trace.length) :
    statusDuring t k = (shownBy k (homeBegins s :: later ++ [homeEnds t])).getLast?.map fun e =>
      { busy := 1#1, hstate := hstateCode e.hstate, status := e.status } := by
  unfold statusDuring
  rw [if_pos made, home.record, List.cons_append, shownBy_append_getLast? s.statusSeen (e := homeBegins s) begun]

/-- While an event is still to come, the port shows a transient state and the old `STATUS`. -/
theorem statusDuring_transient {k : Nat} (begun : s.trace.length ≤ k) (coming : k < t.trace.length) :
    ∃ code ∈ [1#3, 2#3, 3#3], statusDuring t k = some { busy := 1#1, hstate := code, status := s.status } := by
  have no_result : shownBy k [homeEnds t] = [] := by
    rw [shownBy_one]
    exact if_neg (Nat.not_le.mpr coming)
  have some_shown : shownBy k (homeBegins s :: later) ≠ [] := by simp [shownBy, homeBegins, begun]
  rw [statusDuring_of_homeRecord home begun (Nat.le_of_lt coming), shownBy_append, no_result, List.append_nil,
    List.getLast?_eq_some_getLast some_shown]
  obtain ⟨code, status⟩ := home.transient _ (List.mem_of_mem_filter (List.getLast_mem some_shown))
  exact ⟨_, code, by rw [Option.map_some, status]⟩

theorem statusDuring_climbs {j k : Nat} {v w : StatusView} (begun : s.trace.length ≤ j) (le : j ≤ k)
    (hv : statusDuring t j = some v) (hw : statusDuring t k = some w) : v.hstate.toNat ≤ w.hstate.toNat := by
  have made : k ≤ t.trace.length := by
    by_contra late
    rw [statusDuring_later (Nat.not_le.mp late)] at hw
    cases hw
  rw [statusDuring_of_homeRecord home begun (le.trans made)] at hv
  rw [statusDuring_of_homeRecord home (begun.trans le) made] at hw
  obtain ⟨a, ha, rfl⟩ := Option.map_eq_some_iff.mp hv
  obtain ⟨b, hb, rfl⟩ := Option.map_eq_some_iff.mp hw
  exact shownBy_last_le (R := fun a b => CodeLe a.hstate b.hstate) (fun _ => Nat.le_refl _) home.climbs le ha hb

end Record

/-- Settles O47. The record of the HOME is `homeBody_record`, from the acceptance with no events made; the response adds
nothing to it. -/
theorem statusPortDuringHome : Obligations.StatusPortDuringHome := by
  unfold Obligations.StatusPortDuringHome
  intro s t rest pin quiet busy word hstep
  have legal : decode 0x6000000000#40 = .instr .home := decode_encode .home rfl
  rw [step_of_instr pin busy word legal, cutShort_exec_of_none (u := accept s) quiet] at hstep
  cases (exec_home_of rfl).symm.trans hstep
  obtain ⟨later, body⟩ := homeBody_record (accept s)
  have home := homeRecord_respond body (responseWord false (homeBody (accept s)).status)
  exact ⟨statusDuring_homeBegins home, fun k hk => statusDuring_transient home (Nat.zero_le k) hk,
    fun j k v w le hv hw => statusDuring_climbs home (Nat.zero_le j) le hv hw, statusDuring_homeEnds home, rfl,
    home.result⟩

end Sys2Proof.Machine

/-! ### A pass of CALIBRATE when the button's answers are given (44_calibration.md R130 to R134) -/

namespace Sys2Proof.Machine

/-- A pass after the HOME that left `h`: the phase index `idx`, `rest` left of the button's answers, the events `ev`. -/
def inPass (idx : BitVec 3) (rest : List Bool) (ev : List Event) (h : State) : State :=
  { h with phaseIdx := idx, buttonIn := rest, trace := h.trace ++ ev }

theorem homeBody_inPass (s : State) :
    homeBody s = inPass (homeBody s).phaseIdx s.buttonIn [] (homeBody s) := by
  obtain ⟨-, button, -⟩ := homeBody_keeps s
  unfold inPass
  rw [← button, List.append_nil]

section Checks

variable {idx : BitVec 3} {rest : List Bool} {ev : List Event} {h : State}

theorem abortCheck_inPass_pressed (goOn : State → State) :
    abortCheck (inPass idx (true :: rest) ev h) goOn = endCalibrate (inPass idx rest (ev ++ [.buttonSample true]) h) := by
  rw [abortCheck_pressed _ goOn rest rfl]
  simp only [inPass, List.append_assoc]

theorem abortCheck_inPass_released (goOn : State → State) :
    abortCheck (inPass idx (false :: rest) ev h) goOn = goOn (inPass idx rest (ev ++ [.buttonSample false]) h) := by
  rw [abortCheck_released _ goOn rest rfl]
  simp only [inPass, List.append_assoc]

theorem delay_inPass (d : Nat) (b : Bool) :
    delay d (inPass idx rest (ev ++ [.buttonSample b]) h) =
      inPass idx rest (ev ++ [.buttonSample b] ++ delayEvents d) h := by
  rw [delay_after_button d _ b (h.trace ++ ev) (by rw [inPass, List.append_assoc])]
  simp only [inPass, List.append_assoc]

/-- The move back, from where HOME left the outputs released (R132). -/
theorem stepMotor_inPass (steps : Int) (released : releasedBank h.cfg.val h.out = h.out) :
    stepMotor steps .fast (inPass idx rest ev h) =
      inPass (phaseIdxAfter h.cfg.val idx steps) rest (ev ++ moveEvents h.cfg.val (fun _ _ => 1) idx.toNat steps) h := by
  rw [stepMotor_eq]
  simp only [inPass, released, delayUnits_fast, List.append_assoc]

end Checks

theorem releasedBank_homeBody (s : State) :
    releasedBank (homeBody s).cfg.val (homeBody s).out = (homeBody s).out := by
  obtain ⟨cfg, -⟩ := homeBody_keeps s
  obtain ⟨-, out⟩ := homeBody_rests s
  rw [out, cfg, releasedBank_released]

theorem calibratePass_of_abort {s : State} (policy : s.cfg.val.calFailPolicy = .abort) (failed : (homeBody s).status ≠ 0#2) :
    calibratePass s = endCalibrate (homeBody s) := by
  obtain ⟨cfg, -⟩ := homeBody_keeps s
  exact if_pos (by simp [abortOnFailure, cfg, policy, failed])

theorem calibratePass_of_checks {s : State} (on : s.cfg.val.calFailPolicy = .ignore ∨ (homeBody s).status = 0#2) :
    calibratePass s = abortCheck (homeBody s) calibrateLongDwell := by
  obtain ⟨cfg, -⟩ := homeBody_keeps s
  have no_abort : abortOnFailure (homeBody s) = false := by
    rcases on with policy | status
    · simp [abortOnFailure, cfg, policy]
    · simp [abortOnFailure, status]
  exact if_neg (by rw [no_abort]; exact Bool.false_ne_true)

/-! ### The four abort checks (R131) -/

/-- The phase index at the check number `k`: the move back is the sub-move before the check number 2 (R130, R132). -/
def idxAtCheck (p : Params) (idx : BitVec 3) (k : Nat) : BitVec 3 :=
  if k ≤ 1 then idx else phaseIdxAfter p idx (-(stepsPerHour p : Int))

/-- What the pass goes on with when the check number `k` reads 0 (R130). -/
def afterCheck (k : Nat) : State → State :=
  match k with
  | 0 => calibrateLongDwell
  | 1 => calibrateBackMove
  | 2 => calibrateShortDwell
  | _ => stayInFlight

/-- The events of a pass up to the check number `k`, after checks that read 0. -/
def eventsToCheck (p : Params) (start k : Nat) : List Event :=
  checkEvents p start 0 (List.replicate k false) ++ subMoveEvents p start k

theorem checkEvents_concat (p : Params) (start i : Nat) (presses : List Bool) (b : Bool) :
    checkEvents p start i (presses ++ [b]) =
      checkEvents p start i presses ++ subMoveEvents p start (i + presses.length) ++ [.buttonSample b] := by
  induction presses generalizing i with
  | nil => rfl
  | cons c rest ih =>
    rw [List.cons_append, checkEvents, ih, checkEvents, List.length_cons, Nat.add_right_comm, Nat.add_assoc i]
    simp only [List.append_assoc, List.cons_append]

theorem eventsToCheck_concat (p : Params) (start k : Nat) (b : Bool) :
    eventsToCheck p start k ++ [.buttonSample b] = checkEvents p start 0 (List.replicate k false ++ [b]) := by
  rw [checkEvents_concat, List.length_replicate, Nat.zero_add, eventsToCheck]

/-- From the check number `k` to the next one. -/
theorem afterCheck_inPass {h : State} (released : releasedBank h.cfg.val h.out = h.out) {k : Nat} (hk : k < 3)
    (rest : List Bool) (ev : List Event) (b : Bool) :
    afterCheck k (inPass (idxAtCheck h.cfg.val h.phaseIdx k) rest (ev ++ [.buttonSample b]) h) =
      abortCheck (inPass (idxAtCheck h.cfg.val h.phaseIdx (k + 1)) rest
        (ev ++ [.buttonSample b] ++ subMoveEvents h.cfg.val h.phaseIdx.toNat (k + 1)) h) (afterCheck (k + 1)) := by
  match k, hk with
  | 0, _ => exact congrArg (abortCheck · calibrateBackMove) (delay_inPass _ b)
  | 1, _ => exact congrArg (abortCheck · calibrateShortDwell) (stepMotor_inPass _ released)
  | 2, _ => exact congrArg (abortCheck · stayInFlight) (delay_inPass _ b)

/-- Checks that read 0 lead to the check number `k`. -/
theorem checks_reach {h : State} (released : releasedBank h.cfg.val h.out = h.out) {k : Nat} (hk : k ≤ 3)
    (rest : List Bool) :
    abortCheck (inPass h.phaseIdx (List.replicate k false ++ rest) [] h) calibrateLongDwell =
      abortCheck (inPass (idxAtCheck h.cfg.val h.phaseIdx k) rest (eventsToCheck h.cfg.val h.phaseIdx.toNat k) h)
        (afterCheck k) := by
  induction k generalizing rest with
  | zero => rfl
  | succ k ih =>
    rw [List.replicate_succ', List.append_assoc, List.singleton_append, ih (by omega), abortCheck_inPass_released,
      afterCheck_inPass released (by omega), eventsToCheck_concat, ← List.replicate_succ', eventsToCheck]

/-- A press at the check number `k` ends the pass there (R131). -/
theorem checks_pressed {h : State} (released : releasedBank h.cfg.val h.out = h.out) {k : Nat} (hk : k ≤ 3)
    (rest : List Bool) :
    abortCheck (inPass h.phaseIdx (answersOf false k ++ rest) [] h) calibrateLongDwell =
      endCalibrate (inPass (idxAtCheck h.cfg.val h.phaseIdx k) rest
        (checkEvents h.cfg.val h.phaseIdx.toNat 0 (answersOf false k)) h) := by
  rw [answersOf, Bool.not_false, List.append_assoc, List.singleton_append, checks_reach released hk,
    abortCheck_inPass_pressed, eventsToCheck_concat]

/-- Four checks that read 0 leave the command in flight (R135; log 4). -/
theorem checks_released {h : State} (released : releasedBank h.cfg.val h.out = h.out) (rest : List Bool) :
    abortCheck (inPass h.phaseIdx (List.replicate 4 false ++ rest) [] h) calibrateLongDwell =
      stayInFlight (inPass (idxAtCheck h.cfg.val h.phaseIdx 3) rest
        (checkEvents h.cfg.val h.phaseIdx.toNat 0 (List.replicate 4 false)) h) := by
  rw [List.replicate_succ', List.append_assoc, List.singleton_append, checks_reach released (Nat.le_refl 3),
    abortCheck_inPass_released, eventsToCheck_concat]
  rfl

theorem calibratePass_of_button {s : State} (on : s.cfg.val.calFailPolicy = .ignore ∨ (homeBody s).status = 0#2)
    {answers : List Bool} (button : s.buttonIn = answers) :
    calibratePass s = abortCheck (inPass (homeBody s).phaseIdx answers [] (homeBody s)) calibrateLongDwell :=
  (calibratePass_of_checks on).trans (congrArg (abortCheck · calibrateLongDwell) (button ▸ homeBody_inPass s))

/-- Settles O38. HOME does not touch the button's answers and leaves the outputs released; from there the checks run as
`checks_pressed` and `checks_released` say. -/
theorem calibratePassResult : Obligations.CalibratePassResult := by
  unfold Obligations.CalibratePassResult
  intro s u home p back
  cases (exec_home_of rfl).symm.trans home
  obtain ⟨cfg, -, -, -, -, -, response, -⟩ := homeBody_keeps s
  have released := releasedBank_homeBody s
  refine ⟨fun policy failed => ?_, fun on => ⟨fun k rest hk button => ?_, fun rest button => ?_⟩⟩
  · rw [exec_next]
    exact congrArg _ (calibratePass_of_abort policy failed)
  · have pass := (calibratePass_of_button on button).trans (checks_pressed released hk rest)
    rw [cfg] at pass
    exact (exec_next _ s).trans (congrArg _ pass)
  · have pass := (calibratePass_of_button on button).trans (checks_released released rest)
    rw [cfg] at pass
    rw [← response]
    exact (exec_next _ s).trans (congrArg _ pass)

end Sys2Proof.Machine

/-! ### CALIBRATE over its passes (44_calibration.md R135, R131) -/

namespace Sys2Proof.Machine

/-- The next step is a pass of CALIBRATE, of one in flight or of the word on the port, and neither the policy nor a reset can
end it; `words` are then still presented. -/
structure PassIsNext (words : List Command) (s : State) : Prop where
  policy : s.cfg.val.calFailPolicy = .ignore
  pin : s.resetPin = false
  quiet : s.resetAfter = none
  due : (s.busy = true ∧ s.calibrating = true ∧ s.presented = words) ∨
    (s.busy = false ∧ s.presented = 0x8000000000#40 :: words)

/-- The step is the pass from a state `u` that has the inputs and no response. -/
theorem step_of_passIsNext {words : List Command} {s : State} (next : PassIsNext words s) :
    ∃ u, step s = .next (calibratePass u) ∧ u.cfg = s.cfg ∧ u.resetPin = false ∧ u.resetAfter = none ∧
      u.presented = words ∧ u.buttonIn = s.buttonIn ∧ u.response = none := by
  obtain ⟨-, pin, quiet, ⟨busy, flight, presented⟩ | ⟨busy, word⟩⟩ := next
  · refine ⟨waitStep s, ?_, rfl, pin, quiet, presented, rfl, rfl⟩
    rw [step_in_flight pin busy flight, underReset_none (u := waitStep s) quiet, resumeCalibrate]
  · have legal : decode 0x8000000000#40 = .instr .calibrate := decode_encode .calibrate rfl
    refine ⟨accept s, ?_, rfl, pin, quiet, by rw [accept_presented, word, List.tail_cons], rfl, rfl⟩
    rw [step_of_instr pin busy word legal, cutShort_exec_of_none (u := accept s) quiet, exec_next]

/-- A pass whose four checks read 0 is followed by another pass (R135). -/
theorem step_goes_on {words : List Command} {s : State} (next : PassIsNext words s) {rest : List Bool}
    (button : s.buttonIn = List.replicate 4 false ++ rest) :
    ∃ t, step s = .next t ∧ PassIsNext words t ∧ t.busy = true ∧ t.calibrating = true ∧ t.response = none ∧
      t.buttonIn = rest ∧ t.presented = words ∧ t.cfg = s.cfg := by
  obtain ⟨u, hstep, cfg, pin, quiet, presented, same_button, response⟩ := step_of_passIsNext next
  obtain ⟨hcfg, -, hpresented, hpin, -, -, hresponse, hquiet⟩ := homeBody_keeps u
  have policy : u.cfg.val.calFailPolicy = .ignore := cfg ▸ next.policy
  rw [calibratePass_of_button (.inl policy) (same_button.trans button),
    checks_released (releasedBank_homeBody u)] at hstep
  refine ⟨_, hstep, ⟨?_, hpin.trans pin, hquiet.trans quiet, .inl ⟨rfl, rfl, hpresented.trans presented⟩⟩, rfl, rfl,
    hresponse.trans response, rfl, hpresented.trans presented, hcfg.trans cfg⟩
  rw [stayInFlight_cfg, inPass, hcfg]
  exact policy

/-- A press at the check number `k` ends the command with the response 0 (R131, R137). -/
theorem step_ends {words : List Command} {s : State} (next : PassIsNext words s) {k : Nat} (hk : k ≤ 3) {rest : List Bool}
    (button : s.buttonIn = answersOf false k ++ rest) :
    ∃ t, step s = .next t ∧ t.busy = false ∧ t.calibrating = false ∧ t.response = some 0b0000#4 ∧ t.buttonIn = rest ∧
      t.presented = words := by
  obtain ⟨u, hstep, cfg, -, -, presented, same_button, -⟩ := step_of_passIsNext next
  obtain ⟨-, -, hpresented, -⟩ := homeBody_keeps u
  have policy : u.cfg.val.calFailPolicy = .ignore := cfg ▸ next.policy
  rw [calibratePass_of_button (.inl policy) (same_button.trans button),
    checks_pressed (releasedBank_homeBody u) hk] at hstep
  exact ⟨_, hstep, rfl, rfl, rfl, rfl, hpresented.trans presented⟩

theorem run_succ {s t : State} (h : step s = .next t) (k : Nat) :
    Host.Core.run Sys2Proof.core (k + 1) s = Host.Core.run Sys2Proof.core k t := by
  have core_step : Sys2Proof.core.step s = .next t := h
  simp only [Host.Core.run, core_step]

theorem run_goes_on (k : Nat) {words : List Command} {s : State} (next : PassIsNext words s) {rest : List Bool}
    (button : s.buttonIn = List.replicate (4 * (k + 1)) false ++ rest) :
    ∃ t : State, Host.Core.run Sys2Proof.core (k + 1) s = .next t ∧ PassIsNext words t ∧ t.busy = true ∧
      t.calibrating = true ∧ t.response = none ∧ t.buttonIn = rest ∧ t.presented = words ∧ t.cfg = s.cfg := by
  induction k generalizing s with
  | zero =>
    obtain ⟨t, hstep, ends⟩ := step_goes_on next button
    exact ⟨t, run_succ hstep 0, ends⟩
  | succ k ih =>
    rw [Nat.mul_succ, Nat.add_comm, List.replicate_add, List.append_assoc] at button
    obtain ⟨t, hstep, next_t, -, -, -, button_t, -, cfg⟩ := step_goes_on next button
    obtain ⟨u, hrun, next_u, busy, flight, response, button_u, presented, cfg'⟩ := ih next_t button_t
    exact ⟨u, (run_succ hstep _).trans hrun, next_u, busy, flight, response, button_u, presented, cfg'.trans cfg⟩

/-- Settles O40, by induction on the number of passes (`run_goes_on`). -/
theorem calibrateRunsWhileNotPressed : Obligations.CalibrateRunsWhileNotPressed := by
  unfold Obligations.CalibrateRunsWhileNotPressed
  intro k s words rest policy pin quiet due button
  obtain ⟨t, hrun, next, busy, flight, response, button', presented, cfg⟩ :=
    run_goes_on k ⟨policy, pin, quiet, due⟩ button
  exact ⟨t, hrun, busy, flight, response, button', presented, cfg, next.pin⟩

theorem answersOf_add (b : Bool) (m n : Nat) : answersOf b (m + n) = List.replicate m b ++ answersOf b n := by
  unfold answersOf
  rw [List.replicate_add, List.append_assoc]

/-- After `q` passes without a press, a press at the check number `r` ends the next one. -/
theorem run_ends (q : Nat) {r : Nat} (hr : r ≤ 3) {words : List Command} {s : State} (next : PassIsNext words s)
    {rest : List Bool} (button : s.buttonIn = answersOf false (4 * q + r) ++ rest) :
    ∃ t : State, Host.Core.run Sys2Proof.core (q + 1) s = .next t ∧ t.busy = false ∧ t.calibrating = false ∧
      t.response = some 0b0000#4 ∧ t.buttonIn = rest ∧ t.presented = words := by
  induction q generalizing s with
  | zero =>
    rw [Nat.mul_zero, Nat.zero_add] at button
    obtain ⟨t, hstep, ends⟩ := step_ends next hr button
    exact ⟨t, run_succ hstep 0, ends⟩
  | succ q ih =>
    rw [show 4 * (q + 1) + r = 4 + (4 * q + r) by omega, answersOf_add, List.append_assoc] at button
    obtain ⟨t, hstep, next_t, -, -, -, button_t, -⟩ := step_goes_on next button
    obtain ⟨u, hrun, ends⟩ := ih next_t button_t
    exact ⟨u, (run_succ hstep _).trans hrun, ends⟩

/-- Settles O41. The sample number `m` is the check number `m mod 4` of the pass number `m div 4`. -/
theorem calibrateEndsWhenPressed : Obligations.CalibrateEndsWhenPressed := by
  unfold Obligations.CalibrateEndsWhenPressed
  intro m s words rest policy pin quiet due button
  have split : 4 * (m / 4) + m % 4 = m := Nat.div_add_mod m 4
  rw [← split] at button
  exact run_ends (m / 4) (by omega) ⟨policy, pin, quiet, due⟩ button

end Sys2Proof.Machine
